-- ==== Sys2Proof/Word.lean ====
section
/-! DEFINITION. The value types of the core: bytes, 32-bit words, byte strings and window offsets
(00_scope.md R10, R11; 20_memory.md R48). Word arithmetic is that of BitVec 32: `+` wraps mod 2^32. -/

namespace Sys2Proof

/-- One byte (20_memory.md R48: the addressable unit of DBUF). -/
abbrev Byte := BitVec 8

/-- The `u32` of 00_scope.md R10. -/
abbrev Word := BitVec 32

/-- The byte string `bytes[n]` of 00_scope.md R11; `len(s)` is `s.length`. -/
abbrev Bytes := List Byte

/-- A byte offset in the 2048-byte register window, 0x000 to 0x7FF (20_memory.md R48: 11 bits). -/
abbrev Offset := BitVec 11

end Sys2Proof
end

