-- ==== Sys2Proof/Config.lean ====
section
/-! DEFINITION. What is fixed for every core (00_scope.md R8), what differs between builds and platforms
(00_scope.md R9; 92_eei_decisions.md D39 to D42), and the free values the spec leaves open
(93_implementation_defined.md U1 to U3). -/

namespace Sys2Proof.Config

/-! ## Fixed parameters (00_scope.md R8) -/

/-- `N`, the ROMix cost. (Irreducible, so that no elaboration unrolls the two loops of 1024 steps.) -/
@[irreducible] def romixN : Nat := 1024
/-- `IN_LEN`, the scrypt input length in bytes. -/
def inLen : Nat := 80
/-- `OUT_LEN`, the scrypt output length in bytes. -/
def outLen : Nat := 32
/-- `BLK`, the scrypt block size 2·64·r in bytes. -/
def blk : Nat := 128
/-- `SUB`, one Salsa20/8 state in bytes. -/
def sub : Nat := 64
/-- `SCRATCH_BYTES`, the size of the ROMix V array. -/
def scratchBytes : Nat := 131072
/-- `HLEN`, the output length of HMAC-SHA256 in bytes. -/
def hlen : Nat := 32
/-- `SHA_BLOCK`, the SHA-256 block size in bytes. -/
def shaBlock : Nat := 64
/-- `DBUF_SIZE`, the size of the data buffer in bytes (10_state.md R22). -/
def dbufSize : Nat := 1024

/-- The size of the register window in bytes: offsets 0x000 to 0x7FF (20_memory.md R48, R57). -/
def windowSize : Nat := 2048

/-! ## Free values

Constants without a body: nothing can be proved about what they are, so a claim that holds, holds for
every draw. -/

/-- The value DBUF byte `a` holds after reset number `epoch` until it is first written
(70_reset_and_hazards.md R137, U1): "one draw per byte at the reset step" (log 3). -/
opaque dbufDraw (epoch a : Nat) : Byte

/-- Byte `k` of scratchpad block `j` after reset number `epoch`, until the block is written
(10_state.md R32, U3; log 5). -/
opaque scratchDraw (epoch j k : Nat) : Byte

/-- Byte number `n` that a host read of DBUF returns while a command is in flight
(20_memory.md R61, U2): "any byte values, freely per access" (log 4). -/
opaque busyDraw (n : Nat) : Byte

/-- Word number `n` that a host read past the end of the window returns (20_memory.md R57: such an offset does
"not belong to the core"; log 18). -/
opaque outsideDraw (n : Nat) : Word

end Sys2Proof.Config

namespace Sys2Proof

/-- The build parameters of 00_scope.md R9. -/
structure Build where
  /-- `VEC_PRESENT`: the build contains the vectorized Salsa20/8/BlockMix datapath. -/
  vecPresent : Bool
  /-- `SCRATCH_AVAIL`: scratchpad bytes the build provides. -/
  scratchAvail : Nat
  deriving DecidableEq, Repr

/-- The parameters 92_eei_decisions.md leaves open to the platform (D39, D40, D42; log 15). -/
structure Platform where
  /-- `WINDOW_BASE`: the host address of window offset 0x000 (20_memory.md R48). -/
  windowBase : Nat
  /-- `HOST_BUS_FAULT`: the platform raises a fault of its own on a bus error (20_memory.md R54). -/
  hostBusFault : Bool
  /-- `IRQ_ROUTE`: the input of the host's interrupt controller that irq drives (60_exceptions.md R125). -/
  irqRoute : Nat
  deriving DecidableEq, Repr

/-- A conforming build has at least 131072 bytes of scratchpad (00_scope.md R9). -/
def Build.conforming (b : Build) : Bool := decide (Config.scratchBytes ≤ b.scratchAvail)

end Sys2Proof
end

