-- ==== Sys2Proof/Syntax.lean ====
section
/-! DEFINITION. The commands of the core (30_encoding.md R69), the registers of its window (10_state.md R18),
and the host command language (30_encoding.md R74, R75). -/

namespace Sys2Proof

/-- The eleven commands of 30_encoding.md R69. A command word carries no operand fields (R67): the operands
are the operand registers latched at issue (R70). -/
inductive Instr
  | nop
  | sha256Init
  | sha256Compress
  | sha256Digest
  | hmacSha256
  | pbkdf2Sha256
  | salsa208
  | blockmix
  | romix
  | scrypt
  | detect
  deriving DecidableEq, Repr

/-- The seven operand registers (10_state.md R29). -/
inductive OpReg
  | src0 | src1 | dst | len0 | len1 | len2 | iter
  deriving DecidableEq, Repr

/-- The registers of the window's CSR half (10_state.md R18). -/
inductive Reg
  | id | param | dbufsz | cap | ctrl | status | cmd | errinfo
  | op (r : OpReg)
  | digest (k : Fin 8)
  deriving DecidableEq, Repr

/-- The size of a host access (20_memory.md R49). `other bits` is any size but 8 and 32 bits; such an access
is a bus error (R54). -/
inductive Size
  | b8
  | b32
  | other (bits : Nat)
  deriving DecidableEq, Repr

/-- A host variable of 30_encoding.md R74, numbered (log 9). -/
abbrev Var := Nat

/-- A label of 30_encoding.md R74, numbered. -/
abbrev Label := Nat

/-- The host statements of 30_encoding.md R74. `read .b32` is RD32, `read .b8` RD8, `write .b32` WR32 and
`write .b8` WR8 (which stores the low byte of its value). `off` counts bytes from the start of the window and has
no width: an offset past 0x7FF is not the core's (20_memory.md R57; log 18). -/
inductive Stmt
  | write (size : Size) (off : Nat) (v : Word)
  | read (size : Size) (off : Nat) (x : Var)
  | label (l : Label)
  | bne (x : Var) (mask value : Word) (l : Label)
  deriving DecidableEq, Repr

/-- One line of a host program (30_encoding.md R74, R75): a statement, a command statement with its operands
in the order R75 shows, or a pseudo-instruction. -/
inductive Line
  | stmt (st : Stmt)
  | nop
  | sha256Init
  | sha256Compress (s : Word)
  | sha256Digest (s n d : Word)
  | hmacSha256 (k kn m mn d : Word)
  | pbkdf2Sha256 (p pn s sn c dk d : Word)
  | salsa208 (s d : Word)
  | blockmix (s d : Word)
  | romix (s d : Word)
  | scrypt (s d : Word)
  | detect
  | wait (l : Label) (st : Var)
  | ack
  | load (o : Nat) (hex : Bytes)
  | dump (o n : Nat) (v : Var)
  deriving DecidableEq, Repr

end Sys2Proof
end

