-- ==== Sys2Proof/WellFormed.lean ====
section
/-! DEFINITION. Well-formed commands and host programs, as Bools. -/

namespace Sys2Proof

/-- Every command is well formed: a command has no operand field that could be out of range
(30_encoding.md R67, "The command word carries no register or immediate fields"). -/
def Instr.wf (i : Instr) : Bool :=
  match i with
  | .nop | .sha256Init | .sha256Compress | .sha256Digest | .hmacSha256 | .pbkdf2Sha256
  | .salsa208 | .blockmix | .romix | .scrypt | .detect => true

/-- `other bits` stands for a size that is neither 8 nor 32 bits (20_memory.md R49). -/
def Size.wf (z : Size) : Bool :=
  match z with
  | .b8 | .b32 => true
  | .other bits => bits != 8 && bits != 32

/-- An offset of a host statement is "a window offset" (30_encoding.md R74): 0x000 to 0x7FF (20_memory.md
R57). -/
def offsetWf (off : Nat) : Bool := decide (off < Config.windowSize)

/-- An access names a window offset, a byte write a byte (30_encoding.md R74: `WR8 <offset>, <byte>`), and a
branch a label of the program. -/
def Stmt.wf (labels : List Label) (st : Stmt) : Bool :=
  match st with
  | .write .b8 off v => offsetWf off && decide (v.toNat < 256)
  | .write z off _ => offsetWf off && z.wf
  | .read z off _ => offsetWf off && z.wf
  | .label _ => true
  | .bne _ _ _ l => labels.contains l

/-- A line is well formed when its statements are: LOAD and DUMP stay within DBUF (30_encoding.md R75;
20_memory.md R57), and WAIT's own label stands in the program. -/
def Line.wf (labels : List Label) (line : Line) : Bool :=
  match line with
  | .stmt st => st.wf labels
  | .nop | .sha256Init | .sha256Compress _ | .sha256Digest _ _ _ | .hmacSha256 _ _ _ _ _
  | .pbkdf2Sha256 _ _ _ _ _ _ _ | .salsa208 _ _ | .blockmix _ _ | .romix _ _ | .scrypt _ _
  | .detect | .ack => true
  | .wait l _ => labels.contains l
  | .load o hex => decide (o + hex.length ≤ Config.dbufSize)
  | .dump o n _ => decide (o + n ≤ Config.dbufSize)

/-- The labels a program declares, in order. -/
def programLabels (prog : List Stmt) : List Label :=
  prog.filterMap fun st => match st with
    | .label l => some l
    | .write _ _ _ | .read _ _ _ | .bne _ _ _ _ => none

/-- Every branch of the program names a label the program declares. -/
def branchesDeclared (prog : List Stmt) : Bool :=
  prog.all fun st => match st with
    | .bne _ _ _ l => (programLabels prog).contains l
    | .write _ _ _ | .read _ _ _ | .label _ => true

/-- A host program is well formed when its statements are and no label is declared twice. -/
def programWf (prog : List Stmt) : Bool :=
  prog.all (Stmt.wf (programLabels prog)) && decide (programLabels prog).Nodup

end Sys2Proof
end

