-- ==== Sys2Proof/Decode.lean ====
section
/-! DEFINITION. Decoding and encoding of command words (30_encoding.md R67 to R69, R72). -/

namespace Sys2Proof

/-- Why a word is illegal (30_encoding.md R68, R72). -/
inductive DecodeError
  /-- A bit of RSV [31:8] is set. -/
  | reservedBits
  /-- RSV is 0 and OP is above 0x0A. -/
  | unknownOp
  deriving DecidableEq, Repr

/-- The OP field, bits [7:0] (30_encoding.md R67). -/
def opField (w : Word) : Byte := w.extractLsb' 0 8

/-- The RSV field, bits [31:8] (30_encoding.md R67). -/
def rsvField (w : Word) : BitVec 24 := w.extractLsb' 8 24

/-- The command an opcode selects, column OP of the table of 30_encoding.md R69. -/
def opcodeCommand (op : Nat) : Option Instr :=
  match op with
  | 0x00 => some .nop
  | 0x01 => some .sha256Init
  | 0x02 => some .sha256Compress
  | 0x03 => some .sha256Digest
  | 0x04 => some .hmacSha256
  | 0x05 => some .pbkdf2Sha256
  | 0x06 => some .salsa208
  | 0x07 => some .blockmix
  | 0x08 => some .romix
  | 0x09 => some .scrypt
  | 0x0A => some .detect
  | _ => none

/-- Decoding, total on every 32-bit word (30_encoding.md R68). -/
def decode (w : Word) : Except DecodeError Instr :=
  if rsvField w = 0 then
    match opcodeCommand (opField w).toNat with
    | some i => .ok i
    | none => .error .unknownOp
  else .error .reservedBits

/-- The command words, column "word" of the table of 30_encoding.md R69. -/
def encode (i : Instr) : Word :=
  match i with
  | .nop => 0x00000000
  | .sha256Init => 0x00000001
  | .sha256Compress => 0x00000002
  | .sha256Digest => 0x00000003
  | .hmacSha256 => 0x00000004
  | .pbkdf2Sha256 => 0x00000005
  | .salsa208 => 0x00000006
  | .blockmix => 0x00000007
  | .romix => 0x00000008
  | .scrypt => 0x00000009
  | .detect => 0x0000000A

/-- The instruction the decoder reads from the word `w` of a table row of `nbits` bits. Every command is one
32-bit word written to CMD by one access (30_encoding.md R67), so no byte order arises. A number that does
not fit 32 bits is no command word. -/
def decodeTableWord (nbits w : Nat) : Option Instr :=
  let bits := w % 2 ^ nbits
  if bits < 2 ^ 32 then
    match decode (BitVec.ofNat 32 bits) with
    | .ok i => some i
    | .error _ => none
  else none

end Sys2Proof
end

