-- ==== Sys2Proof/Machine/Bytes.lean ====
section
/-! DEFINITION. Rotations, byte strings and byte orders (00_scope.md R10, R11; 20_memory.md R52). -/

namespace Sys2Proof.Machine

/-- `rotl32(x, n)` for 1 <= n <= 31 (00_scope.md R10). -/
def rotl32 (x : Word) (n : Nat) : Word := (x <<< n) ||| (x >>> (32 - n))

/-- `rotr32(x, n)` is `rotl32(x, 32 - n)` (00_scope.md R10). -/
def rotr32 (x : Word) (n : Nat) : Word := rotl32 x (32 - n)

/-- Byte `i` of a string, counted from 0 (00_scope.md R11). Every use in the model is at an index inside
the string. -/
def byteAt (s : Bytes) (i : Nat) : Byte := s.getD i 0

/-- `s[i..j)`: bytes i to j-1 (00_scope.md R11). -/
def slice (s : Bytes) (i j : Nat) : Bytes := (s.drop i).take (j - i)

/-- `zeros(n)` (00_scope.md R11). -/
def zeros (n : Nat) : Bytes := List.replicate n 0

/-- `rep(b, n)` (00_scope.md R11). -/
def rep (b : Byte) (n : Nat) : Bytes := List.replicate n b

/-- `xorbytes(a, b)` (00_scope.md R11). -/
def xorBytes (a b : Bytes) : Bytes := List.zipWith (· ^^^ ·) a b

/-- `be32(v)`: most significant byte first (00_scope.md R11). -/
def be32 (v : Word) : Bytes :=
  [v.extractLsb' 24 8, v.extractLsb' 16 8, v.extractLsb' 8 8, v.extractLsb' 0 8]

/-- `be64(v)`: most significant byte first (00_scope.md R11). -/
def be64 (v : BitVec 64) : Bytes := be32 (v.extractLsb' 32 32) ++ be32 (v.extractLsb' 0 32)

/-- `le32(v)`: least significant byte first (00_scope.md R11). -/
def le32 (v : Word) : Bytes :=
  [v.extractLsb' 0 8, v.extractLsb' 8 8, v.extractLsb' 16 8, v.extractLsb' 24 8]

/-- `u32be(s, k)`: the u32 whose `be32` is `s[k..k+4)` (00_scope.md R11). -/
def u32be (s : Bytes) (k : Nat) : Word :=
  byteAt s k ++ byteAt s (k + 1) ++ byteAt s (k + 2) ++ byteAt s (k + 3)

/-- `u32le(s, k)`: the u32 whose `le32` is `s[k..k+4)` (00_scope.md R11). -/
def u32le (s : Bytes) (k : Nat) : Word :=
  byteAt s (k + 3) ++ byteAt s (k + 2) ++ byteAt s (k + 1) ++ byteAt s k

end Sys2Proof.Machine
end

