-- ==== Sys2Proof/Machine/State.lean ====
section
/-! DEFINITION. The state of the core and of the agents around it, as plain data, and the state after reset
(10_state.md R17 to R42). -/

namespace Sys2Proof.Machine

/-- The error codes of 60_exceptions.md R114. Codes 7 to 15 are never written, so they have no constructor. -/
inductive ErrCode
  | ok | illegalOp | inLen | outLen | param | range | alloc
  deriving DecidableEq, Repr

/-- The values of ERRINFO.FIELD (10_state.md R28). Values 10 to 15 are never written. -/
inductive ErrField
  | none | cmd | src0 | src1 | dst | len0 | len1 | len2 | iter | scratch
  deriving DecidableEq, Repr

/-- The STATUS fields (10_state.md R25). Reserved bits read 0 and ignore writes (R19), so they are not stored. -/
structure Status where
  busy : Bool
  done : Bool
  path : Bool
  overrun : Bool
  busyAcc : Bool
  busErr : Bool
  err : ErrCode
  deriving DecidableEq, Repr

/-- The CTRL fields (10_state.md R24). -/
structure Ctrl where
  ie : Bool
  forceScalar : Bool
  deriving DecidableEq, Repr

/-- The CAP fields: the capability latch (10_state.md R23). -/
structure Cap where
  detected : Bool
  vec : Bool
  deriving DecidableEq, Repr

/-- The ERRINFO fields (10_state.md R28). -/
structure ErrInfo where
  op : Byte
  field : ErrField
  deriving DecidableEq, Repr

/-- The seven operand registers (10_state.md R29). -/
structure OpRegs where
  src0 : Word
  src1 : Word
  dst : Word
  len0 : Word
  len1 : Word
  len2 : Word
  iter : Word
  deriving DecidableEq, Repr

/-- The in-flight latch L (10_state.md R34). -/
structure Latch where
  cmd : Word
  ops : OpRegs
  forceScalar : Bool
  deriving DecidableEq, Repr

/-- DBUF: the bytes written since the last reset, addresses strictly rising (10_state.md R31; log 3). -/
abbrev Memory := List Host.Cell

/-- The scratchpad V: the 128-byte blocks written since the last reset, indexes strictly rising
(10_state.md R32; log 5). -/
abbrev Scratch := List (Nat × Bytes)

/-- The host: its program in the language of 30_encoding.md R74, the index of its next statement, its
variables, and whether the platform has raised a fault of its own on a bus error (20_memory.md R54). -/
structure HostAgent where
  prog : List Stmt
  pc : Nat
  vars : List (Nat × Word)
  busFault : Bool
  deriving DecidableEq, Repr

/-- Whose step is next (00_scope.md R13; 60_exceptions.md R123; 70_reset_and_hazards.md R135). -/
inductive Turn
  | host | core | reset
  deriving DecidableEq, Repr

/-- Everything the spec gives the machine, the parameters of its build and platform, the agents around it,
and the model's own counters and list of turns. -/
structure State where
  /-- SRC0, SRC1, DST, LEN0, LEN1, LEN2, ITER (10_state.md R29). -/
  ops : OpRegs
  /-- H0..H7 (10_state.md R30). -/
  h : Vector Word 8
  /-- CAP (10_state.md R23). -/
  cap : Cap
  /-- CTRL (10_state.md R24). -/
  ctrl : Ctrl
  /-- STATUS (10_state.md R25). -/
  status : Status
  /-- The CMD read-back: the last command word accepted by an issue (10_state.md R27). -/
  cmd : Word
  /-- ERRINFO (10_state.md R28). -/
  errinfo : ErrInfo
  /-- DBUF (10_state.md R31). -/
  dbuf : Memory
  /-- The scratchpad V (10_state.md R32). -/
  scratch : Scratch
  /-- The in-flight latch L (10_state.md R34). -/
  latch : Latch
  /-- The build parameters (00_scope.md R9); no step changes them. -/
  build : Build
  /-- The platform parameters (92_eei_decisions.md D39 to D42); no step changes them. -/
  platform : Platform
  /-- MODEL: resets so far; selects the free values DBUF and V hold (log 3, log 5). -/
  resets : Nat
  /-- MODEL: counts the free values that host reads have drawn, of DBUF while BUSY (log 4) and past the end of
  the window (log 18). -/
  draws : Nat
  /-- MODEL: the host agent (log 8). -/
  host : HostAgent
  /-- MODEL: the turns to come (log 1). -/
  sched : List Turn
  deriving DecidableEq, Repr

/-- Why a step can stop. No command and no register access raises one of these; only the host's own BNE
statement does, where 30_encoding.md R74 gives it no meaning (log 9). -/
inductive Fault
  /-- Raised by a host BNE, when it would branch to a label that does not stand in the program. Safe: the
  model stops where R74 says nothing. -/
  | hostUnknownLabel (l : Label)
  /-- Raised by a host BNE, when no read has given the variable a value. Safe: the model stops where R74
  says nothing. -/
  | hostUnreadVariable (x : Var)
  deriving DecidableEq, Repr

/-- Why the model has no meaning for an instruction. -/
inductive Refusal
  /-- Raised by `exec` for a command that has no meaning yet (none is left). Safe. -/
  | notModelled (mnemonic : String)
  deriving DecidableEq, Repr

/-- All operand registers 0 (10_state.md R42). -/
def OpRegs.zero : OpRegs := ⟨0, 0, 0, 0, 0, 0, 0⟩

/-- The core after a reset (10_state.md R42) on a given build and platform, with the model's own fields given.
DBUF and V hold free values: nothing is listed. The latch is "unspecified and unobservable"; it holds zeros
here (DESIGN CHOICE, unsafe: log 6). -/
def State.resetWith (build : Build) (platform : Platform) (resets draws : Nat) (host : HostAgent)
    (sched : List Turn) : State where
  ops := OpRegs.zero
  h := iv
  cap := ⟨false, false⟩
  ctrl := ⟨false, false⟩
  status := ⟨false, false, false, false, false, false, .ok⟩
  cmd := 0
  errinfo := ⟨0, .none⟩
  dbuf := []
  scratch := []
  latch := ⟨0, OpRegs.zero, false⟩
  build := build
  platform := platform
  resets := resets
  draws := draws
  host := host
  sched := sched

/-- The machine right after power-on (10_state.md R42): a conforming build without the vector datapath and
no host program (DESIGN CHOICE, unsafe: logs 1, 7, 8, 15). -/
def State.reset : State :=
  State.resetWith ⟨false, Config.scratchBytes⟩ ⟨0, false, 0⟩ 0 0 ⟨[], 0, [], false⟩ []

end Sys2Proof.Machine
end

