-- ==== Sys2Proof/Machine/Flags.lean ====
section
/-! DEFINITION. The words the status and control registers read as, the values writes give them, and every
computation of a STATUS field (10_state.md R23 to R28, R35; 60_exceptions.md R114). -/

namespace Sys2Proof.Machine

/-- The word with bit `i` equal to `b` and every other bit 0. -/
def bitAt (b : Bool) (i : Nat) : Word := (BitVec.ofBool b).setWidth 32 <<< i

/-- The code numbers of 60_exceptions.md R114. -/
def ErrCode.code (c : ErrCode) : BitVec 4 :=
  match c with
  | .ok => 0
  | .illegalOp => 1
  | .inLen => 2
  | .outLen => 3
  | .param => 4
  | .range => 5
  | .alloc => 6

/-- The numbers of ERRINFO.FIELD (10_state.md R28). -/
def ErrField.code (f : ErrField) : BitVec 4 :=
  match f with
  | .none => 0
  | .cmd => 1
  | .src0 => 2
  | .src1 => 3
  | .dst => 4
  | .len0 => 5
  | .len1 => 6
  | .len2 => 7
  | .iter => 8
  | .scratch => 9

/-- STATUS as read (10_state.md R25). -/
def Status.word (st : Status) : Word :=
  bitAt st.busy 0 ||| bitAt st.done 1 ||| bitAt st.path 2 ||| bitAt st.overrun 3 |||
    bitAt st.busyAcc 4 ||| bitAt st.busErr 5 ||| (st.err.code.setWidth 32 <<< 8)

/-- CTRL as read (10_state.md R24). -/
def Ctrl.word (c : Ctrl) : Word := bitAt c.ie 0 ||| bitAt c.forceScalar 1

/-- CTRL as written: bits [31:2] are ignored (10_state.md R24). -/
def ctrlOfWord (w : Word) : Ctrl := ⟨w.getLsbD 0, w.getLsbD 1⟩

/-- CAP as read (10_state.md R23). -/
def Cap.word (c : Cap) : Word := bitAt c.detected 0 ||| bitAt c.vec 1

/-- ERRINFO as read (10_state.md R28). -/
def ErrInfo.word (e : ErrInfo) : Word := e.op.setWidth 32 ||| (e.field.code.setWidth 32 <<< 8)

/-- STATUS after a host write of `w` (10_state.md R26): DONE (with ERR), OVERRUN, BUSY_ACC and BUS_ERR are
cleared by a 1 in their bit; every other bit of `w` is ignored. -/
def Status.written (st : Status) (w : Word) : Status :=
  { st with
    done := st.done && !w.getLsbD 1
    err := if w.getLsbD 1 then .ok else st.err
    overrun := st.overrun && !w.getLsbD 3
    busyAcc := st.busyAcc && !w.getLsbD 4
    busErr := st.busErr && !w.getLsbD 5 }

/-- STATUS after an issue (10_state.md R38). -/
def Status.issued (st : Status) : Status := { st with busy := true, done := false, err := .ok }

/-- STATUS after a completion with the given code and datapath (10_state.md R39). -/
def Status.completed (st : Status) (code : ErrCode) (path : Bool) : Status :=
  { st with busy := false, done := true, err := code, path := path }

/-- The interrupt output `irq = CTRL.IE & STATUS.DONE` (10_state.md R35; 60_exceptions.md R125). -/
def State.irq (s : State) : Bool := s.ctrl.ie && s.status.done

/-- The irq output at the input of the host's interrupt controller the platform routes it to
(60_exceptions.md R125, `IRQ_ROUTE`). -/
def State.irqLine (s : State) (input : Nat) : Bool := s.irq && input == s.platform.irqRoute

end Sys2Proof.Machine
end

