-- ==== Sys2Proof/Machine/Store.lean ====
section
/-! DEFINITION. Sparse data by key: a list of (key, value) pairs with strictly rising keys. DBUF, V and the
host variables are kept in it, so its operations and laws are said once. -/

namespace Sys2Proof.Machine

/-- The value listed for key `k`, if any. -/
def storeGet? {α : Type} (m : List (Nat × α)) (k : Nat) : Option α :=
  match m with
  | [] => none
  | (k', x) :: rest => if k' = k then some x else storeGet? rest k

/-- List `x` for key `k`, in the place the order of the keys gives it. -/
def storeSet {α : Type} (m : List (Nat × α)) (k : Nat) (x : α) : List (Nat × α) :=
  match m with
  | [] => [(k, x)]
  | (k', x') :: rest =>
    if k < k' then (k, x) :: (k', x') :: rest
    else if k = k' then (k, x) :: rest
    else (k', x') :: storeSet rest k x

/-- The canonical form: keys strictly rising, so that equal contents are equal lists. -/
def storeSorted {α : Type} (m : List (Nat × α)) : Bool :=
  match m with
  | [] => true
  | (k, _) :: rest => rest.all (fun e => decide (k < e.1)) && storeSorted rest

end Sys2Proof.Machine
end

