-- ==== Sys2Proof/Machine/Ops.lean ====
section
/-! DEFINITION. The named operations over memory and registers: DBUF and scratchpad access, the capability
probe, issue, the two ways a command completes, reset and turns. -/

namespace Sys2Proof.Machine

/-! ## DBUF (10_state.md R31; 20_memory.md R51) -/

/-- The canonical form of DBUF: addresses strictly rising and inside 0..1023 (20_memory.md R48). An address
that is not listed holds no written value, so no entry can equal what it reads as (log 3). -/
def Memory.wf (m : Memory) : Bool :=
  storeSorted m && m.all fun c => decide (c.1 < Config.dbufSize)

/-- Store a byte string at consecutive addresses from `a`. -/
def Memory.writeBytes (m : Memory) (a : Nat) (bs : Bytes) : Memory :=
  match bs with
  | [] => m
  | b :: rest => Memory.writeBytes (storeSet m a b) (a + 1) rest

/-- DBUF[a]: the byte last written there, or the free value drawn at the last reset
(70_reset_and_hazards.md R137). -/
def State.dbufByte (s : State) (a : Nat) : Byte :=
  match storeGet? s.dbuf a with
  | some b => b
  | none => Config.dbufDraw s.resets a

/-- `MemRead(a, n)` (00_scope.md R12): DBUF[a..a+n). -/
def State.memRead (s : State) (a n : Nat) : Bytes :=
  (List.range n).map fun k => s.dbufByte (a + k)

/-- `MemWrite(a, n, v)` (00_scope.md R12): byte k of v goes to DBUF[a+k]; n is the length of v. -/
def State.memWrite (s : State) (a : Nat) (v : Bytes) : State :=
  { s with dbuf := Memory.writeBytes s.dbuf a v }

/-! ## The scratchpad V (10_state.md R32) -/

/-- The canonical form of V: block indexes strictly rising and inside 0..1023, every block 128 bytes. -/
def Scratch.wf (v : Scratch) : Bool :=
  storeSorted v && v.all fun e => decide (e.1 < Config.romixN) && decide (e.2.length = Config.blk)

/-- `VRead(j)` (00_scope.md R12): block V[j], or the free values it holds after reset number `epoch`. -/
def vRead (epoch : Nat) (v : Scratch) (j : Nat) : Bytes :=
  match storeGet? v j with
  | some b => b
  | none => (List.range Config.blk).map fun k => Config.scratchDraw epoch j k

/-- `VWrite(i, b)` (00_scope.md R12). -/
def vWrite (v : Scratch) (i : Nat) (b : Bytes) : Scratch := storeSet v i b

/-! ## Issue (10_state.md R38) -/

/-- Issue of the command word `w`: latch the operand registers and FORCE_SCALAR; BUSY <- 1, DONE <- 0,
ERR <- 0. The word is not checked. -/
def State.issue (s : State) (w : Word) : State :=
  { s with
    latch := ⟨w, s.ops, s.ctrl.forceScalar⟩
    cmd := w
    status := s.status.issued }

/-! ## Completion (10_state.md R39) -/

/-- `raise Error(code, field)` (60_exceptions.md R115): how every failed command completes. It records the
code in STATUS.ERR, the opcode byte and the operand in ERRINFO, clears PATH, and writes nothing else. -/
def State.raiseError (s : State) (code : ErrCode) (field : ErrField) : State :=
  { s with
    status := s.status.completed code false
    errinfo := ⟨opField s.latch.cmd, field⟩ }

/-- The error-free completion (10_state.md R39) of a command whose commit block has been applied. -/
def State.completeOk (s : State) (path : Bool) : State :=
  { s with
    status := s.status.completed .ok path
    errinfo := ⟨opField s.latch.cmd, .none⟩ }

/-! ## The capability probe and the datapath multiplexer -/

/-- `Detect()` (10_state.md R40): write the capability latch once. -/
def State.detect (s : State) : State :=
  { s with cap := if s.cap.detected then s.cap else ⟨true, s.build.vecPresent⟩ }

/-- `SelectPath()` (44_scrypt_dispatch.md R107): 1 = vector, 0 = scalar. -/
def State.selectPath (s : State) : Bool :=
  (if s.cap.detected then s.cap.vec else s.build.vecPresent) && !s.latch.forceScalar

/-! ## Reset and turns -/

/-- The reset event (70_reset_and_hazards.md R135, R138): every piece of the core's state takes the value of
10_state.md R42, a command in flight is discarded, and DBUF and V are drawn afresh. The host, which is another
agent, keeps its program, position and variables (log 10). -/
def State.resetEvent (s : State) : State :=
  State.resetWith s.build s.platform (s.resets + 1) s.draws s.host s.sched

/-- Whose step is next: the head of the list of turns; when it is empty the core completes a command in
flight, and otherwise the host moves (log 1). -/
def State.nextTurn (s : State) : Turn :=
  match s.sched with
  | t :: _ => t
  | [] => if s.status.busy then .core else .host

/-- The list of turns after one step. -/
def State.popTurn (s : State) : State := { s with sched := s.sched.tail }

/-- A command word placed so that the next step completes it: it is issued, and the core moves next. -/
def State.placeCommand (s : State) (w : Word) : State :=
  { s.issue w with sched := match s.sched with
    | [] => []
    | t :: ts => .core :: t :: ts }

end Sys2Proof.Machine
end

