-- ==== Sys2Proof/Machine/Window.lean ====
section
/-! DEFINITION. The host register window (10_state.md R18 to R31; 20_memory.md R48 to R61). -/

namespace Sys2Proof.Machine

/-! ## The register map (10_state.md R18) -/

/-- The byte offset of an operand register. -/
def opRegOffset (r : OpReg) : Offset :=
  match r with
  | .src0 => 0x020
  | .src1 => 0x024
  | .dst => 0x028
  | .len0 => 0x02C
  | .len1 => 0x030
  | .len2 => 0x034
  | .iter => 0x038

/-- The byte offset of a register. -/
def regOffset (r : Reg) : Offset :=
  match r with
  | .id => 0x000
  | .param => 0x004
  | .dbufsz => 0x008
  | .cap => 0x00C
  | .ctrl => 0x010
  | .status => 0x014
  | .cmd => 0x018
  | .errinfo => 0x01C
  | .op r => opRegOffset r
  | .digest k => 0x040 + BitVec.ofNat 11 (4 * k.val)

/-- The register at a 4-aligned CSR offset; none at a reserved offset (10_state.md R19). -/
def regAt (off : Offset) : Option Reg :=
  match off.toNat with
  | 0x000 => some .id
  | 0x004 => some .param
  | 0x008 => some .dbufsz
  | 0x00C => some .cap
  | 0x010 => some .ctrl
  | 0x014 => some .status
  | 0x018 => some .cmd
  | 0x01C => some .errinfo
  | 0x020 => some (.op .src0)
  | 0x024 => some (.op .src1)
  | 0x028 => some (.op .dst)
  | 0x02C => some (.op .len0)
  | 0x030 => some (.op .len1)
  | 0x034 => some (.op .len2)
  | 0x038 => some (.op .iter)
  | 0x040 => some (.digest 0)
  | 0x044 => some (.digest 1)
  | 0x048 => some (.digest 2)
  | 0x04C => some (.digest 3)
  | 0x050 => some (.digest 4)
  | 0x054 => some (.digest 5)
  | 0x058 => some (.digest 6)
  | 0x05C => some (.digest 7)
  | _ => none

/-- The first offset of the DBUF half (20_memory.md R48). -/
def dbufBase : Nat := 0x400

/-- Whether an offset lies in the CSR half, 0x000 to 0x3FF. -/
def isCsr (off : Offset) : Bool := decide (off.toNat < dbufBase)

/-- The DBUF byte at a window offset of the DBUF half (20_memory.md R50). -/
def dbufIndex (off : Offset) : Nat := off.toNat - dbufBase

/-- Whether the window supports the access (20_memory.md R49); any other is a bus error (R54). -/
def legalAccess (size : Size) (off : Offset) : Bool :=
  match size with
  | .b32 => off.toNat % 4 == 0
  | .b8 => !isCsr off
  | .other _ => false

/-! ## Register reads and writes -/

/-- An operand register (10_state.md R29). -/
def OpRegs.get (o : OpRegs) (r : OpReg) : Word :=
  match r with
  | .src0 => o.src0
  | .src1 => o.src1
  | .dst => o.dst
  | .len0 => o.len0
  | .len1 => o.len1
  | .len2 => o.len2
  | .iter => o.iter

/-- Write an operand register: all 32 bits (10_state.md R29). -/
def OpRegs.set (o : OpRegs) (r : OpReg) (v : Word) : OpRegs :=
  match r with
  | .src0 => { o with src0 := v }
  | .src1 => { o with src1 := v }
  | .dst => { o with dst := v }
  | .len0 => { o with len0 := v }
  | .len1 => { o with len1 := v }
  | .len2 => { o with len2 := v }
  | .iter => { o with iter := v }

/-- The word a register reads as (10_state.md R20 to R30). No read has a side effect (20_memory.md R56). -/
def State.readReg (s : State) (r : Reg) : Word :=
  match r with
  | .id => idValue
  | .param => paramValue
  | .dbufsz => dbufszValue
  | .cap => s.cap.word
  | .ctrl => s.ctrl.word
  | .status => s.status.word
  | .cmd => s.cmd
  | .errinfo => s.errinfo.word
  | .op r => s.ops.get r
  | .digest k => s.h[k]

/-- A write to CMD (10_state.md R27): an issue when BUSY = 0; dropped, with OVERRUN set, when BUSY = 1. -/
def State.writeCmd (s : State) (w : Word) : State :=
  if s.status.busy then { s with status := { s.status with overrun := true } } else s.issue w

/-- A 32-bit write to a register (10_state.md R19, R24, R26, R27, R29): ignored by read-only registers. -/
def State.writeReg (s : State) (r : Reg) (v : Word) : State :=
  match r with
  | .ctrl => { s with ctrl := ctrlOfWord v }
  | .status => { s with status := s.status.written v }
  | .cmd => s.writeCmd v
  | .op r => { s with ops := s.ops.set r v }
  | .id | .param | .dbufsz | .cap | .errinfo | .digest _ => s

/-- A read of an aligned CSR offset: 0 at a reserved one (10_state.md R19). -/
def State.readCsr (s : State) (off : Offset) : Word :=
  match regAt off with
  | some r => s.readReg r
  | none => 0

/-- A write to an aligned CSR offset: ignored at a reserved one (10_state.md R19). -/
def State.writeCsr (s : State) (off : Offset) (v : Word) : State :=
  match regAt off with
  | some r => s.writeReg r v
  | none => s

/-! ## DBUF through the window -/

/-- A host read of `n` DBUF bytes from `a`: their contents, or, while BUSY = 1, `n` freshly drawn free values
(20_memory.md R61). -/
def State.hostReadDbuf (s : State) (a n : Nat) : State × Bytes :=
  if s.status.busy then
    ({ s with draws := s.draws + n }, (List.range n).map fun k => Config.busyDraw (s.draws + k))
  else (s, s.memRead a n)

/-- A host write of bytes to DBUF from `a`: dropped, with BUSY_ACC set, while BUSY = 1 (20_memory.md R61). -/
def State.hostWriteDbuf (s : State) (a : Nat) (v : Bytes) : State :=
  if s.status.busy then { s with status := { s.status with busyAcc := true } } else s.memWrite a v

/-! ## Accesses -/

/-- The core's side of a bus error: BUS_ERR <- 1 (20_memory.md R54). -/
def State.busError (s : State) : State := { s with status := { s.status with busErr := true } }

/-- A host read: the state after it and the value returned, an 8-bit value widened with zeros
(20_memory.md R49, R50, R54). -/
def State.hostRead (s : State) (size : Size) (off : Offset) : State × Word :=
  if legalAccess size off then
    match size with
    | .b32 =>
      if isCsr off then (s, s.readCsr off)
      else ((s.hostReadDbuf (dbufIndex off) 4).1, u32le (s.hostReadDbuf (dbufIndex off) 4).2 0)
    | .b8 => ((s.hostReadDbuf (dbufIndex off) 1).1, (byteAt (s.hostReadDbuf (dbufIndex off) 1).2 0).setWidth 32)
    | .other _ => (s.busError, 0)
  else (s.busError, 0)

/-- A host write; an 8-bit write stores the low byte of its value (20_memory.md R49, R50, R54). -/
def State.hostWrite (s : State) (size : Size) (off : Offset) (v : Word) : State :=
  if legalAccess size off then
    match size with
    | .b32 => if isCsr off then s.writeCsr off v else s.hostWriteDbuf (dbufIndex off) (le32 v)
    | .b8 => s.hostWriteDbuf (dbufIndex off) [v.setWidth 8]
    | .other _ => s.busError
  else s.busError

/-! ## The window in the host's address space (20_memory.md R48, R57) -/

/-- The host address of a window offset. -/
def windowAddress (p : Platform) (off : Offset) : Nat := p.windowBase + off.toNat

/-- The core's offset for a byte count from the start of the window; none past 0x7FF, where nothing belongs to
the core (20_memory.md R57). -/
def coreOffset? (off : Nat) : Option Offset :=
  if off < Config.windowSize then some (BitVec.ofNat 11 off) else none

/-- The window offset of a host address; none outside the window, where nothing belongs to the core. -/
def windowOffset? (p : Platform) (addr : Nat) : Option Offset :=
  if p.windowBase ≤ addr then coreOffset? (addr - p.windowBase) else none

end Sys2Proof.Machine
end

