-- ==== Sys2Proof/Machine/Agent.lean ====
section
/-! DEFINITION. The host agent: its statements (30_encoding.md R74) and the expansion of the lines of a host
program (30_encoding.md R75). -/

namespace Sys2Proof.Machine

/-! ## Statements -/

/-- The value of a host variable, if a read has given it one. -/
def HostAgent.var? (h : HostAgent) (x : Var) : Option Word := storeGet? h.vars x

/-- The index of the statement `<label>:` in a program. -/
def labelIndex? (prog : List Stmt) (l : Label) : Option Nat := prog.findIdx? (· == .label l)

/-- The host goes on with the statement at `pc`. -/
def State.hostAt (s : State) (pc : Nat) : State := { s with host := { s.host with pc := pc } }

/-- The host goes on with the next statement. -/
def State.hostNext (s : State) : State := s.hostAt (s.host.pc + 1)

/-- Give a host variable a value. -/
def State.setVar (s : State) (x : Var) (v : Word) : State :=
  { s with host := { s.host with vars := storeSet s.host.vars x v } }

/-- The host's side of an access: when it is a bus error and the platform has HOST_BUS_FAULT, the platform
raises a fault of its own (20_memory.md R54; log 15). The core's state is not touched. -/
def State.noteBusFault (s : State) (size : Size) (off : Offset) : State :=
  if !legalAccess size off && s.platform.hostBusFault then
    { s with host := { s.host with busFault := true } }
  else s

/-- What a host read past the end of the window gives, from the free word drawn for it; an 8-bit read gives a
byte widened with zeros (20_memory.md R57; log 18). -/
def outsideValue (size : Size) (w : Word) : Word :=
  match size with
  | .b8 => (w.setWidth 8).setWidth 32
  | .b32 | .other _ => w

/-- A host write `off` bytes from the start of the window: the core's access when the offset is the core's, and
otherwise nothing of the core (20_memory.md R57; log 18). -/
def State.busWrite (s : State) (size : Size) (off : Nat) (v : Word) : State :=
  match coreOffset? off with
  | some o => (s.hostWrite size o v).noteBusFault size o
  | none => s

/-- A host read `off` bytes from the start of the window: the core's access when the offset is the core's, and
otherwise a free value that the core has no part in (20_memory.md R57; log 18). -/
def State.busRead (s : State) (size : Size) (off : Nat) : State × Word :=
  match coreOffset? off with
  | some o => ((s.hostRead size o).1.noteBusFault size o, (s.hostRead size o).2)
  | none => ({ s with draws := s.draws + 1 }, outsideValue size (Config.outsideDraw s.draws))

/-- A host branch (30_encoding.md R74): go to the label if `(x & mask) != value`. -/
def State.runBne (s : State) (x : Var) (mask value : Word) (l : Label) : Host.Outcome State Fault Refusal :=
  match s.host.var? x with
  | none => .fault (.hostUnreadVariable x)
  | some v =>
    if v &&& mask = value then .next s.hostNext
    else match labelIndex? s.host.prog l with
      | none => .fault (.hostUnknownLabel l)
      | some i => .next (s.hostAt i)

/-- One host statement (30_encoding.md R74). -/
def State.runStmt (s : State) (st : Stmt) : Host.Outcome State Fault Refusal :=
  match st with
  | .write size off v => .next (s.busWrite size off v).hostNext
  | .read size off x => .next ((s.busRead size off).1.setVar x (s.busRead size off).2).hostNext
  | .label _ => .next s.hostNext
  | .bne x mask value l => s.runBne x mask value l

/-- The host's next statement, if its program has not run past its last one. -/
def State.hostStmt? (s : State) : Option Stmt := s.host.prog[s.host.pc]?

/-- One step of the host: its next statement; nothing when its program has ended. -/
def State.hostStep (s : State) : Host.Outcome State Fault Refusal :=
  match s.hostStmt? with
  | some st => s.runStmt st
  | none => .next s

/-! ## Lines and their expansions (30_encoding.md R75) -/

/-- `WR32 <reg>, <value>`. -/
def wr32 (r : Reg) (v : Word) : Stmt := .write .b32 (regOffset r).toNat v

/-- `RD32 <reg> -> <name>`. -/
def rd32 (r : Reg) (x : Var) : Stmt := .read .b32 (regOffset r).toNat x

/-- `WR32 CMD, <word>`: the write that issues a command. -/
def wrCmd (i : Instr) : Stmt := wr32 .cmd (encode i)

/-- `WR8 0x400+o+k, b` (30_encoding.md R75, LOAD). -/
def wr8Dbuf (a : Nat) (b : Byte) : Stmt := .write .b8 (dbufBase + a) (b.setWidth 32)

/-- `RD8 0x400+o+k -> x` (30_encoding.md R75, DUMP). -/
def rd8Dbuf (a : Nat) (x : Var) : Stmt := .read .b8 (dbufBase + a) x

/-- The LOAD expansion: one WR8 per byte, from DBUF byte `o`. -/
def loadBytes (o : Nat) (hex : Bytes) : List Stmt :=
  match hex with
  | [] => []
  | b :: rest => wr8Dbuf o b :: loadBytes (o + 1) rest

/-- The expansion of a line (30_encoding.md R75). The element v[k] of DUMP is variable v + k (log 9). -/
def expandLine (line : Line) : List Stmt :=
  match line with
  | .stmt st => [st]
  | .nop => [wrCmd .nop]
  | .sha256Init => [wrCmd .sha256Init]
  | .sha256Compress s => [wr32 (.op .src0) s, wrCmd .sha256Compress]
  | .sha256Digest s n d =>
    [wr32 (.op .src0) s, wr32 (.op .len0) n, wr32 (.op .dst) d, wrCmd .sha256Digest]
  | .hmacSha256 k kn m mn d =>
    [wr32 (.op .src0) k, wr32 (.op .len0) kn, wr32 (.op .src1) m, wr32 (.op .len1) mn,
      wr32 (.op .dst) d, wrCmd .hmacSha256]
  | .pbkdf2Sha256 p pn s sn c dk d =>
    [wr32 (.op .src0) p, wr32 (.op .len0) pn, wr32 (.op .src1) s, wr32 (.op .len1) sn,
      wr32 (.op .iter) c, wr32 (.op .len2) dk, wr32 (.op .dst) d, wrCmd .pbkdf2Sha256]
  | .salsa208 s d => [wr32 (.op .src0) s, wr32 (.op .dst) d, wrCmd .salsa208]
  | .blockmix s d => [wr32 (.op .src0) s, wr32 (.op .dst) d, wrCmd .blockmix]
  | .romix s d => [wr32 (.op .src0) s, wr32 (.op .dst) d, wrCmd .romix]
  | .scrypt s d =>
    [wr32 (.op .src0) s, wr32 (.op .len0) 80, wr32 (.op .dst) d, wr32 (.op .len2) 32, wrCmd .scrypt]
  | .detect => [wrCmd .detect]
  | .wait l st => [.label l, rd32 .status st, .bne st 0x1 0x0 l]
  | .ack => [wr32 .status 0x0000003A]
  | .load o hex => loadBytes o hex
  | .dump o n v => (List.range n).map fun k => rd8Dbuf (o + k) (v + k)

/-- The statements of a host program. -/
def assemble (lines : List Line) : List Stmt := lines.flatMap expandLine

end Sys2Proof.Machine
end

