-- ==== Sys2Proof/Machine/Operands.lean ====
section
/-! DEFINITION. Every operand form and every check of a command (30_encoding.md R70, R71; 60_exceptions.md
R114 to R122). Inside a command rule `x[NAME]` is the value latched at issue (00_scope.md R12). -/

namespace Sys2Proof.Machine

/-! ## Operands: latched registers read as naturals (30_encoding.md R71) -/

/-- `L.SRC0` as a DBUF byte offset. -/
def State.src0 (s : State) : Nat := s.latch.ops.src0.toNat
/-- `L.SRC1` as a DBUF byte offset. -/
def State.src1 (s : State) : Nat := s.latch.ops.src1.toNat
/-- `L.DST` as a DBUF byte offset. -/
def State.dst (s : State) : Nat := s.latch.ops.dst.toNat
/-- `L.LEN0` as a length in bytes. -/
def State.len0 (s : State) : Nat := s.latch.ops.len0.toNat
/-- `L.LEN1` as a length in bytes. -/
def State.len1 (s : State) : Nat := s.latch.ops.len1.toNat
/-- `L.LEN2` as a length in bytes. -/
def State.len2 (s : State) : Nat := s.latch.ops.len2.toNat
/-- `L.ITER` as a count. -/
def State.iter (s : State) : Nat := s.latch.ops.iter.toNat

/-- A fixed-length source region at SRC0 (30_encoding.md R70). -/
def State.source (s : State) (n : Nat) : Bytes := s.memRead s.src0 n
/-- The variable-length region [SRC0, SRC0+LEN0): message, key, password. -/
def State.operand0 (s : State) : Bytes := s.memRead s.src0 s.len0
/-- The variable-length region [SRC1, SRC1+LEN1): message, salt. -/
def State.operand1 (s : State) : Bytes := s.memRead s.src1 s.len1

/-! ## Checks -/

/-- One check of a command: when `pass` is false the command raises `Error(code, field)`. -/
structure Check where
  pass : Bool
  code : ErrCode
  field : ErrField
  deriving DecidableEq, Repr

/-- `InRange(off, n)` in unbounded arithmetic (60_exceptions.md R119). -/
def inRange (off n : Nat) : Bool := decide (off + n ≤ Config.dbufSize)

/-- ERR_RANGE for a region at SRC0 (60_exceptions.md R119). -/
def State.checkSrc0 (s : State) (n : Nat) : Check := ⟨inRange s.src0 n, .range, .src0⟩
/-- ERR_RANGE for a region at SRC1. -/
def State.checkSrc1 (s : State) (n : Nat) : Check := ⟨inRange s.src1 n, .range, .src1⟩
/-- ERR_RANGE for a region at DST. -/
def State.checkDst (s : State) (n : Nat) : Check := ⟨inRange s.dst n, .range, .dst⟩
/-- ERR_IN_LEN: LEN0 must be 80 (60_exceptions.md R117). -/
def State.checkInLen (s : State) : Check := ⟨s.len0 == Config.inLen, .inLen, .len0⟩
/-- ERR_OUT_LEN of SCRYPT: LEN2 must be 32 (60_exceptions.md R118). -/
def State.checkOutLen (s : State) : Check := ⟨s.len2 == Config.outLen, .outLen, .len2⟩
/-- ERR_OUT_LEN of PBKDF2_SHA256: LEN2 must not be 0 (60_exceptions.md R118). -/
def State.checkDkLen (s : State) : Check := ⟨s.len2 != 0, .outLen, .len2⟩
/-- ERR_PARAM: ITER must not be 0 (41_hmac_pbkdf2.md R89). -/
def State.checkIter (s : State) : Check := ⟨s.iter != 0, .param, .iter⟩
/-- ERR_ALLOC: the build's scratchpad must hold V (60_exceptions.md R120). -/
def State.checkScratch (s : State) : Check :=
  ⟨decide (Config.scratchBytes ≤ s.build.scratchAvail), .alloc, .scratch⟩

/-- The first check that fails, in the order listed (60_exceptions.md R122). -/
def firstFailing (checks : List Check) : Option Check := checks.find? fun c => !c.pass

/-- The completion of a legal command (10_state.md R39): the first failing check ends it in error, with
nothing else written; otherwise its commit block takes effect and it completes on the given datapath. -/
def State.finish (s : State) (checks : List Check) (commit : State) (path : Bool) :
    Host.Outcome State Fault Refusal :=
  .next (match firstFailing checks with
    | some c => s.raiseError c.code c.field
    | none => commit.completeOk path)

end Sys2Proof.Machine
end

