-- ==== Sys2Proof/Machine/Sha256.lean ====
section
/-! DEFINITION. The SHA-256 compression engine and its commands (40_sha256.md).

The algorithm functions of this file and of the four after it are irreducible, so that no elaboration unrolls
their loops; `unfold` and the kernel see through them. -/

namespace Sys2Proof.Machine

/-! ## Word functions (40_sha256.md R76) -/

/-- `Ch(x, y, z)`. -/
def ch (x y z : Word) : Word := (x &&& y) ^^^ (~~~x &&& z)
/-- `Maj(x, y, z)`. -/
def maj (x y z : Word) : Word := (x &&& y) ^^^ (x &&& z) ^^^ (y &&& z)
/-- `Sig0(x)`, Σ0. -/
def bigSigma0 (x : Word) : Word := rotr32 x 2 ^^^ rotr32 x 13 ^^^ rotr32 x 22
/-- `Sig1(x)`, Σ1. -/
def bigSigma1 (x : Word) : Word := rotr32 x 6 ^^^ rotr32 x 11 ^^^ rotr32 x 25
/-- `sig0(x)`, σ0. -/
def smallSigma0 (x : Word) : Word := rotr32 x 7 ^^^ rotr32 x 18 ^^^ (x >>> 3)
/-- `sig1(x)`, σ1. -/
def smallSigma1 (x : Word) : Word := rotr32 x 17 ^^^ rotr32 x 19 ^^^ (x >>> 10)

/-! ## The compression function (40_sha256.md R79) -/

/-- The message schedule W[0..63]: sixteen big-endian words of the block, then forty-eight more, each from
the words before it. -/
@[irreducible] def messageSchedule (m : Bytes) : List Word :=
  (List.range' 16 48).foldl
    (fun w t => w ++ [smallSigma1 (w.getD (t - 2) 0) + w.getD (t - 7) 0 +
      smallSigma0 (w.getD (t - 15) 0) + w.getD (t - 16) 0])
    ((List.range 16).map fun t => u32be m (4 * t))

/-- Round `t` on the working variables (a, b, c, d, e, f, g, h), numbered 0 to 7. -/
def shaRound (w : List Word) (v : Vector Word 8) (t : Nat) : Vector Word 8 :=
  let t1 := v[7] + bigSigma1 v[4] + ch v[4] v[5] v[6] + roundConstants.getD t 0 + w.getD t 0
  let t2 := bigSigma0 v[0] + maj v[0] v[1] v[2]
  #v[t1 + t2, v[0], v[1], v[2], v[3] + t1, v[4], v[5], v[6]]

/-- `Compress(H, M)` (40_sha256.md R79). -/
@[irreducible] def compress (h : Vector Word 8) (m : Bytes) : Vector Word 8 :=
  Vector.zipWith (· + ·) h ((List.range 64).foldl (shaRound (messageSchedule m)) h)

/-! ## Padding and the full hash (40_sha256.md R80, R81) -/

/-- The number of zero bytes in the padding, `k = (55 - len(m)) mod 64`: the least k >= 0 with
len(m)+1+k+8 a multiple of 64. -/
def padZeros (len : Nat) : Nat := ((55 - (len : Int)) % 64).toNat

/-- `Pad(m) = m || 0x80 || zeros(k) || be64(8 * len(m))` (40_sha256.md R80). -/
def pad (m : Bytes) : Bytes :=
  m ++ [0x80] ++ zeros (padZeros m.length) ++ be64 (BitVec.ofNat 64 (8 * m.length))

/-- `be32(H[0]) || ... || be32(H[7])` (40_sha256.md R81). -/
def digestBytes (h : Vector Word 8) : Bytes := h.toList.flatMap be32

/-- `SHA256(m)` (40_sha256.md R81). -/
@[irreducible] def sha256 (m : Bytes) : Bytes :=
  let p := pad m
  digestBytes ((List.range (p.length / 64)).foldl
    (fun h b => compress h (slice p (64 * b) (64 * b + 64))) iv)

/-! ## Commands -/

/-- SHA256_INIT (40_sha256.md R82): H <- IV. -/
def execSha256Init (s : State) : Host.Outcome State Fault Refusal :=
  s.finish [] { s with h := iv } false

/-- SHA256_COMPRESS (40_sha256.md R83): H <- Compress(H, the 64 bytes at SRC0). -/
def execSha256Compress (s : State) : Host.Outcome State Fault Refusal :=
  s.finish [s.checkSrc0 Config.shaBlock]
    { s with h := compress s.h (s.source Config.shaBlock) } false

/-- SHA256_DIGEST (40_sha256.md R84): the digest of the LEN0 bytes at SRC0 goes to DST. -/
def execSha256Digest (s : State) : Host.Outcome State Fault Refusal :=
  s.finish [s.checkSrc0 s.len0, s.checkDst Config.hlen]
    (s.memWrite s.dst (sha256 s.operand0)) false

end Sys2Proof.Machine
end

