-- ==== Sys2Proof/Machine/Hmac.lean ====
section
/-! DEFINITION. The HMAC-SHA256 controller and the PBKDF2 key-stretcher (41_hmac_pbkdf2.md). -/

namespace Sys2Proof.Machine

/-- `K0`: the key zero-padded to 64 bytes, hashed down first when it is longer than 64 (41_hmac_pbkdf2.md R85). -/
def hmacKeyBlock (key : Bytes) : Bytes :=
  let k1 := if key.length > 64 then sha256 key else key
  k1 ++ zeros (64 - k1.length)

/-- `HMAC(key, msg)` (41_hmac_pbkdf2.md R85). -/
@[irreducible] def hmac (key msg : Bytes) : Bytes :=
  let k0 := hmacKeyBlock key
  let inner := sha256 (xorBytes k0 (rep 0x36 64) ++ msg)
  sha256 (xorBytes k0 (rep 0x5c 64) ++ inner)

/-- The inner loop of PBKDF2 run `n` times: `U <- HMAC(P, U)`, `T <- xorbytes(T, U)` (41_hmac_pbkdf2.md R87). -/
def pbkdf2Iterate (p : Bytes) (n : Nat) (u t : Bytes) : Bytes :=
  match n with
  | 0 => t
  | n + 1 => pbkdf2Iterate p n (hmac p u) (xorBytes t (hmac p u))

/-- PBKDF2 block `i`: T after U_1 .. U_c (41_hmac_pbkdf2.md R87). -/
def pbkdf2Block (p salt : Bytes) (c i : Nat) : Bytes :=
  pbkdf2Iterate p (c - 1) (hmac p (salt ++ be32 (BitVec.ofNat 32 i)))
    (hmac p (salt ++ be32 (BitVec.ofNat 32 i)))

/-- `PBKDF2(P, S, c, dkLen)` for c >= 1 and dkLen >= 1: ceil(dkLen / 32) blocks, i from 1, cut to the first
dkLen bytes (41_hmac_pbkdf2.md R87). -/
@[irreducible] def pbkdf2 (p salt : Bytes) (c dkLen : Nat) : Bytes :=
  ((List.range' 1 ((dkLen + 31) / 32)).flatMap (pbkdf2Block p salt c)).take dkLen

/-! ## Commands -/

/-- HMAC_SHA256 (41_hmac_pbkdf2.md R86): the MAC of the LEN1 bytes at SRC1 under the LEN0-byte key at SRC0
goes to DST. -/
def execHmacSha256 (s : State) : Host.Outcome State Fault Refusal :=
  s.finish [s.checkSrc0 s.len0, s.checkSrc1 s.len1, s.checkDst Config.hlen]
    (s.memWrite s.dst (hmac s.operand0 s.operand1)) false

/-- PBKDF2_SHA256 (41_hmac_pbkdf2.md R89): LEN2 bytes derived from the password at SRC0 and the salt at SRC1
with ITER iterations go to DST. -/
def execPbkdf2Sha256 (s : State) : Host.Outcome State Fault Refusal :=
  s.finish [s.checkDkLen, s.checkIter, s.checkSrc0 s.len0, s.checkSrc1 s.len1, s.checkDst s.len2]
    (s.memWrite s.dst (pbkdf2 s.operand0 s.operand1 s.iter s.len2)) false

end Sys2Proof.Machine
end

