-- ==== Sys2Proof/Machine/Salsa.lean ====
section
/-! DEFINITION. The Salsa20/8 permutation core and the BlockMix sequencer (42_salsa_blockmix.md). The scalar
and the vector datapath compute this one function (44_scrypt_dispatch.md R111). -/

namespace Sys2Proof.Machine

/-- The 16 state words of a sub-block (42_salsa_blockmix.md R90). -/
def salsaLoad (sb : Bytes) : Vector Word 16 := Vector.ofFn fun k => u32le sb (4 * k.val)

/-- The bytes of a state (42_salsa_blockmix.md R90). -/
def salsaStore (x : Vector Word 16) : Bytes := x.toList.flatMap le32

/-- `QR(z, a, b, c, d)` (42_salsa_blockmix.md R91): each step reads what the steps before it wrote. -/
def quarterRound (z : Vector Word 16) (a b c d : Fin 16) : Vector Word 16 :=
  let z := z.set b (z[b] ^^^ rotl32 (z[a] + z[d]) 7)
  let z := z.set c (z[c] ^^^ rotl32 (z[b] + z[a]) 9)
  let z := z.set d (z[d] ^^^ rotl32 (z[c] + z[b]) 13)
  z.set a (z[a] ^^^ rotl32 (z[d] + z[c]) 18)

/-- The column round (42_salsa_blockmix.md R92). -/
def columnRound (z : Vector Word 16) : Vector Word 16 :=
  let z := quarterRound z 0 4 8 12
  let z := quarterRound z 5 9 13 1
  let z := quarterRound z 10 14 2 6
  quarterRound z 15 3 7 11

/-- The row round (42_salsa_blockmix.md R92). -/
def rowRound (z : Vector Word 16) : Vector Word 16 :=
  let z := quarterRound z 0 1 2 3
  let z := quarterRound z 5 6 7 4
  let z := quarterRound z 10 11 8 9
  quarterRound z 15 12 13 14

/-- `DoubleRound(z)` (42_salsa_blockmix.md R92): a column round, then a row round. -/
def doubleRound (z : Vector Word 16) : Vector Word 16 := rowRound (columnRound z)

/-- `Salsa20_8(S)` (42_salsa_blockmix.md R93): 4 double-rounds, then the word-wise sum with the input. -/
@[irreducible] def salsa20_8 (sb : Bytes) : Bytes :=
  let x := salsaLoad sb
  salsaStore (Vector.zipWith (· + ·) x (doubleRound (doubleRound (doubleRound (doubleRound x)))))

/-- `BlockMix(B)` at r = 1 (42_salsa_blockmix.md R96). -/
@[irreducible] def blockMix (b : Bytes) : Bytes :=
  let b0 := slice b 0 64
  let b1 := slice b 64 128
  let y0 := salsa20_8 (xorBytes b1 b0)
  let y1 := salsa20_8 (xorBytes y0 b1)
  y0 ++ y1

/-! ## BlockMix for general r (42_salsa_blockmix.md R95)

Not used by any command: it ties the r = 1 form to the source's wording. -/

/-- The outputs Y_i in order, from the carry X. -/
def blockMixOutputs (x : Bytes) (subs : List Bytes) : List Bytes :=
  match subs with
  | [] => []
  | b :: rest => salsa20_8 (xorBytes x b) :: blockMixOutputs (salsa20_8 (xorBytes x b)) rest

/-- The entries at even positions, then those at odd positions. -/
def deinterleave (ys : List Bytes) : List Bytes :=
  ((List.range ys.length).filter (· % 2 == 0)).map (ys.getD · []) ++
    ((List.range ys.length).filter (· % 2 == 1)).map (ys.getD · [])

/-- `BlockMix_r(B0, ..., B_{2r-1})`: the carry starts as the last sub-block. -/
def blockMixR (subs : List Bytes) : Bytes :=
  (deinterleave (blockMixOutputs (subs.getLastD []) subs)).flatten

/-! ## Commands -/

/-- SALSA20_8 (42_salsa_blockmix.md R94). -/
def execSalsa208 (s : State) : Host.Outcome State Fault Refusal :=
  s.finish [s.checkSrc0 Config.sub, s.checkDst Config.sub]
    (s.detect.memWrite s.dst (salsa20_8 (s.source Config.sub))) s.selectPath

/-- BLOCKMIX (42_salsa_blockmix.md R97). -/
def execBlockmix (s : State) : Host.Outcome State Fault Refusal :=
  s.finish [s.checkSrc0 Config.blk, s.checkDst Config.blk]
    (s.detect.memWrite s.dst (blockMix (s.source Config.blk))) s.selectPath

end Sys2Proof.Machine
end

