-- ==== Sys2Proof/Machine/Romix.lean ====
section
/-! DEFINITION. The ROMix memory-hard engine and its pseudorandom indexer (43_romix.md). The mix phase starts
from the fill's last output (90_conflicts.md C1). -/

namespace Sys2Proof.Machine

/-- `Integerify(X) = u32le(X, 64) mod N` (43_romix.md R98). -/
def integerify (x : Bytes) : Nat := (u32le x 64).toNat % Config.romixN

/-- One step of the fill phase (43_romix.md R99, R100): V[i] <- X, X <- BlockMix(X). -/
def fillStep (vx : Scratch × Bytes) (i : Nat) : Scratch × Bytes :=
  (vWrite vx.1 i vx.2, blockMix vx.2)

/-- The fill phase: the table, and the fill's last output BlockMix(V[N-1]). -/
@[irreducible] def romixFill (v : Scratch) (b : Bytes) : Scratch × Bytes :=
  (List.range Config.romixN).foldl fillStep (v, b)

/-- One step of the mix phase (43_romix.md R99, R101): X <- BlockMix(xorbytes(X, V[Integerify(X)])). -/
def mixStep (epoch : Nat) (v : Scratch) (x : Bytes) : Bytes :=
  blockMix (xorBytes x (vRead epoch v (integerify x)))

/-- The mix phase: N steps. -/
@[irreducible] def romixMix (epoch : Nat) (v : Scratch) (x : Bytes) : Bytes :=
  (List.range Config.romixN).foldl (fun x _ => mixStep epoch v x) x

/-- `ROMix(B)` (43_romix.md R99) on a scratchpad that holds `v` after reset number `epoch`: the table it
leaves in V, and its output. -/
@[irreducible] def romix (epoch : Nat) (v : Scratch) (b : Bytes) : Scratch × Bytes :=
  let filled := romixFill v b
  (filled.1, romixMix epoch filled.1 filled.2)

/-- ROMIX (43_romix.md R104). -/
def execRomix (s : State) : Host.Outcome State Fault Refusal :=
  let r := romix s.resets s.scratch (s.source Config.blk)
  s.finish [s.checkSrc0 Config.blk, s.checkDst Config.blk, s.checkScratch]
    { s.detect.memWrite s.dst r.2 with scratch := r.1 } s.selectPath

end Sys2Proof.Machine
end

