-- ==== Sys2Proof/Machine/Scrypt.lean ====
section
/-! DEFINITION. The scrypt driver, DETECT and NOP (44_scrypt_dispatch.md). -/

namespace Sys2Proof.Machine

/-- `Scrypt(inp)` (44_scrypt_dispatch.md R105): PBKDF2 to 128 bytes, ROMix, PBKDF2 to 32 bytes; with the table
its ROMix leaves in V. -/
@[irreducible] def scrypt (epoch : Nat) (v : Scratch) (inp : Bytes) : Scratch × Bytes :=
  let r := romix epoch v (pbkdf2 inp inp 1 128)
  (r.1, pbkdf2 inp r.2 1 32)

/-- SCRYPT (44_scrypt_dispatch.md R106). -/
def execScrypt (s : State) : Host.Outcome State Fault Refusal :=
  let r := scrypt s.resets s.scratch (s.source Config.inLen)
  s.finish [s.checkInLen, s.checkOutLen, s.checkSrc0 Config.inLen, s.checkDst Config.outLen, s.checkScratch]
    { s.detect.memWrite s.dst r.2 with scratch := r.1 } s.selectPath

/-- DETECT (44_scrypt_dispatch.md R110). -/
def execDetect (s : State) : Host.Outcome State Fault Refusal :=
  s.finish [] s.detect false

/-- NOP (44_scrypt_dispatch.md R112). -/
def execNop (s : State) : Host.Outcome State Fault Refusal :=
  s.finish [] s false

end Sys2Proof.Machine
end

