-- ==== Sys2Proof/Machine/Dispatch.lean ====
section
/-! DEFINITION. The meaning of each command: its completion step (10_state.md R39). -/

namespace Sys2Proof.Machine

/-- The completion of command `i`, on the operands latched in the state (10_state.md R39; 30_encoding.md R68). -/
def exec (i : Instr) (s : State) : Host.Outcome State Fault Refusal :=
  match i with
  | .nop => Sys2Proof.Machine.execNop s
  | .sha256Init => Sys2Proof.Machine.execSha256Init s
  | .sha256Compress => Sys2Proof.Machine.execSha256Compress s
  | .sha256Digest => Sys2Proof.Machine.execSha256Digest s
  | .hmacSha256 => Sys2Proof.Machine.execHmacSha256 s
  | .pbkdf2Sha256 => Sys2Proof.Machine.execPbkdf2Sha256 s
  | .salsa208 => Sys2Proof.Machine.execSalsa208 s
  | .blockmix => Sys2Proof.Machine.execBlockmix s
  | .romix => Sys2Proof.Machine.execRomix s
  | .scrypt => Sys2Proof.Machine.execScrypt s
  | .detect => Sys2Proof.Machine.execDetect s

end Sys2Proof.Machine
end

