-- ==== Sys2Proof/Machine/Complete.lean ====
section
/-! DEFINITION. The step of the core sequencer (10_state.md R39; 30_encoding.md R68). -/

namespace Sys2Proof.Machine

/-- The completion step of a command in flight: decode L.cmd, and run the command or raise ERR_ILLEGAL_OP
(30_encoding.md R68; 60_exceptions.md R116). -/
def State.complete (s : State) : Host.Outcome State Fault Refusal :=
  match decode s.latch.cmd with
  | .ok i => exec i s
  | .error _ => .next (s.raiseError .illegalOp .cmd)

/-- The core's turn: completion while BUSY = 1, and no step while BUSY = 0 (10_state.md R39). -/
def State.coreStep (s : State) : Host.Outcome State Fault Refusal :=
  if s.status.busy then s.complete else .next s

/-- The step of the agent whose turn it is, on the state with that turn taken off the list. -/
def State.takeTurn (s : State) (t : Turn) : Host.Outcome State Fault Refusal :=
  match t with
  | .core => s.popTurn.coreStep
  | .host => s.popTurn.hostStep
  | .reset => .next s.popTurn.resetEvent

end Sys2Proof.Machine
end

