-- ==== Sys2Proof/Machine/Step.lean ====
section
/-! DEFINITION. One step of the machine, and how a command word is placed for the next step. -/

namespace Sys2Proof.Machine

/-- One step: of the host, of the core sequencer, or a reset, as the list of turns says (00_scope.md R13,
R14; 60_exceptions.md R123). -/
def step (s : State) : Host.Outcome State Fault Refusal := s.takeTurn s.nextTurn

/-- The state with the command word of a table row issued and the core to move next. The core fetches
nothing (20_memory.md R57): its next instruction is the word latched at issue (log 8). -/
def State.withFetchWord (s : State) (nbits w : Nat) : State :=
  s.placeCommand (BitVec.ofNat 32 (w % 2 ^ nbits))

end Sys2Proof.Machine
end

