-- ==== Sys2Proof/Safety.lean ====
section
/-! DEFINITION. The terms claims are stated in: the invariant of the machine, what a command leaves unchanged,
what a completion records, when a run has ended, and what a host program line asks for. -/

namespace Sys2Proof.Machine

/-! ## Frames -/

/-- Every DBUF byte reads as before. -/
def DbufSame (s t : State) : Prop := ∀ x : Nat, t.dbufByte x = s.dbufByte x

/-- Every DBUF byte outside the `n` bytes from `a` reads as before. -/
def DbufSameOutside (s t : State) (a n : Nat) : Prop :=
  ∀ x : Nat, (x < a ∨ a + n ≤ x) → t.dbufByte x = s.dbufByte x

/-- What no completion writes (10_state.md R39, "STATUS fields of rule R25" apart): the operand registers,
CTRL, the CMD read-back, the latch, the sticky STATUS bits, the parameters, and the other agents. -/
structure CommandFrame (s t : State) : Prop where
  ops : t.ops = s.ops
  ctrl : t.ctrl = s.ctrl
  cmd : t.cmd = s.cmd
  latch : t.latch = s.latch
  overrun : t.status.overrun = s.status.overrun
  busyAcc : t.status.busyAcc = s.status.busyAcc
  busErr : t.status.busErr = s.status.busErr
  build : t.build = s.build
  platform : t.platform = s.platform
  resets : t.resets = s.resets
  draws : t.draws = s.draws
  host : t.host = s.host
  sched : t.sched = s.sched

/-- What an error-free completion records (10_state.md R39): BUSY <- 0, DONE <- 1, ERR <- 0, PATH <- path,
ERRINFO <- OP op, FIELD 0; and the frame of a completion. -/
structure CompletesOk (s t : State) (op : Byte) (path : Bool) : Prop where
  busy : t.status.busy = false
  done : t.status.done = true
  err : t.status.err = .ok
  path : t.status.path = path
  errinfo : t.errinfo = ⟨op, .none⟩
  frame : CommandFrame s t

/-- What a failed command records, and that it changes nothing else (60_exceptions.md R115). -/
structure FailsWith (s t : State) (code : ErrCode) (field : ErrField) : Prop where
  busy : t.status.busy = false
  done : t.status.done = true
  err : t.status.err = code
  path : t.status.path = false
  op : t.errinfo.op = s.latch.cmd.setWidth 8
  field : t.errinfo.field = field
  frame : CommandFrame s t
  h : t.h = s.h
  cap : t.cap = s.cap
  scratch : t.scratch = s.scratch
  dbuf : DbufSame s t

/-- Command `i` completes in error: the failing operand is recorded and nothing else changes. -/
def Fails (i : Instr) (s : State) (code : ErrCode) (field : ErrField) : Prop :=
  ∃ t, exec i s = .next t ∧ FailsWith s t code field

/-- What the implicit or explicit detection leaves in CAP (10_state.md R40): unchanged once DETECTED = 1, and
otherwise DETECTED = 1 and VEC = VEC_PRESENT. -/
def CapDetected (s t : State) : Prop :=
  (s.cap.detected = true → t.cap = s.cap) ∧
  (s.cap.detected = false → t.cap.detected = true ∧ t.cap.vec = s.build.vecPresent)

/-! ## The invariant -/

/-- What holds of the machine at every step: the canonical forms of its memories, and the promises the spec
makes about its status fields. -/
structure Inv (s : State) : Prop where
  /-- DBUF keeps its canonical form, and no address outside 0..1023 is ever written (20_memory.md R51). -/
  dbuf : Memory.wf s.dbuf = true
  /-- V keeps its canonical form: whole 128-byte blocks at indexes 0..1023 (20_memory.md R48). -/
  scratch : Scratch.wf s.scratch = true
  /-- The host variables keep their canonical form. -/
  vars : storeSorted s.host.vars = true
  /-- "CAP.VEC = 1 implies CAP.DETECTED = 1" (10_state.md R23). -/
  capVec : s.cap.vec = true → s.cap.detected = true
  /-- A detected CAP reports the build (10_state.md R40, R41). -/
  capBuild : s.cap.detected = true → s.cap.vec = s.build.vecPresent
  /-- A command in flight has not signalled completion (10_state.md R38). -/
  busyDone : s.status.busy = true → s.status.done = false
  /-- ERR is nonzero only beside DONE (10_state.md R26, R38, R39). -/
  errDone : s.status.err ≠ .ok → s.status.done = true
  /-- A command that ended in error reports the scalar path (10_state.md R39). -/
  errPath : s.status.err ≠ .ok → s.status.path = false
  /-- A nonzero ERR comes with the operand that caused it (10_state.md R28). -/
  errField : s.status.err ≠ .ok → s.errinfo.field ≠ .none
  /-- PATH = 1 only where the vector datapath was detected (44_scrypt_dispatch.md R107, R109). -/
  pathVec : s.status.path = true → s.cap.vec = true
  /-- CMD reads back the command in flight (10_state.md R34). -/
  latchCmd : s.status.busy = true → s.latch.cmd = s.cmd

/-! ## Runs -/

/-- A run has ended: the host program has run past its last statement and nothing is in flight
(70_reset_and_hazards.md R149). -/
def State.ended (s : State) : Bool := decide (s.host.prog.length ≤ s.host.pc) && !s.status.busy

/-- The step can take place: it neither faults nor is refused. -/
def State.canStep (s : State) : Prop := ∃ t, step s = .next t

/-! ## What a command line of a host program asks for (30_encoding.md R75) -/

/-- The command a line issues, if it is a command statement. -/
def lineCommand? (line : Line) : Option Instr :=
  match line with
  | .nop => some .nop
  | .sha256Init => some .sha256Init
  | .sha256Compress _ => some .sha256Compress
  | .sha256Digest _ _ _ => some .sha256Digest
  | .hmacSha256 _ _ _ _ _ => some .hmacSha256
  | .pbkdf2Sha256 _ _ _ _ _ _ _ => some .pbkdf2Sha256
  | .salsa208 _ _ => some .salsa208
  | .blockmix _ _ => some .blockmix
  | .romix _ _ => some .romix
  | .scrypt _ _ => some .scrypt
  | .detect => some .detect
  | .stmt _ | .wait _ _ | .ack | .load _ _ | .dump _ _ _ => none

/-- The operand registers after a command line: the ones its row of 30_encoding.md R75 names take the line's
operands, the others keep their values. -/
def lineOperands (line : Line) (o : OpRegs) : OpRegs :=
  match line with
  | .sha256Compress s => { o with src0 := s }
  | .sha256Digest s n d => { o with src0 := s, len0 := n, dst := d }
  | .hmacSha256 k kn m mn d => { o with src0 := k, len0 := kn, src1 := m, len1 := mn, dst := d }
  | .pbkdf2Sha256 p pn s sn c dk d =>
    { src0 := p, len0 := pn, src1 := s, len1 := sn, iter := c, len2 := dk, dst := d }
  | .salsa208 s d | .blockmix s d | .romix s d => { o with src0 := s, dst := d }
  | .scrypt s d => { o with src0 := s, len0 := 80, dst := d, len2 := 32 }
  | .nop | .sha256Init | .detect | .stmt _ | .wait _ _ | .ack | .load _ _ | .dump _ _ _ => o

/-- The state at the moment the command `i` is issued with the operand registers `o` (10_state.md R38). -/
def State.issueWith (s : State) (o : OpRegs) (i : Instr) : State := { s with ops := o }.issue (encode i)

end Sys2Proof.Machine
end

