-- ==== Sys2Proof/Certificates/Slice0/Obligations.lean ====
section
/-! DEFINITION. The statements for the provers. Each is made from the numbered rules of spec/ its docstring
names. States are arbitrary unless a premise says otherwise: builds, platforms, free values and interleavings
are therefore arbitrary too. -/

open Sys2Proof Sys2Proof.Machine

/-! ## Encoding and decoding -/

/-- 30_encoding.md R69: "A command word selects a command iff it equals the "word" column exactly", for all
2^32 words; and decoding the encoding of a command gives it back. -/
def Obligations.OnlyTableWordsSelectCommands : Prop :=
  (∀ w : Word,
    (decode w = .ok .nop ↔ w = 0x00000000) ∧
    (decode w = .ok .sha256Init ↔ w = 0x00000001) ∧
    (decode w = .ok .sha256Compress ↔ w = 0x00000002) ∧
    (decode w = .ok .sha256Digest ↔ w = 0x00000003) ∧
    (decode w = .ok .hmacSha256 ↔ w = 0x00000004) ∧
    (decode w = .ok .pbkdf2Sha256 ↔ w = 0x00000005) ∧
    (decode w = .ok .salsa208 ↔ w = 0x00000006) ∧
    (decode w = .ok .blockmix ↔ w = 0x00000007) ∧
    (decode w = .ok .romix ↔ w = 0x00000008) ∧
    (decode w = .ok .scrypt ↔ w = 0x00000009) ∧
    (decode w = .ok .detect ↔ w = 0x0000000A)) ∧
  (∀ i : Instr, i.wf = true → decode (encode i) = .ok i)

/-- 30_encoding.md R69, R72: a few words, legal and illegal. -/
def Obligations.SampleWordsDecode : Prop :=
  decode 0x00000009 = .ok .scrypt ∧ decode 0x00000005 = .ok .pbkdf2Sha256 ∧
  decode 0x00000001 = .ok .sha256Init ∧ decode 0x0000000A = .ok .detect ∧
  decode 0x0000000B = .error .unknownOp ∧ decode 0x00000109 = .error .reservedBits

/-- 30_encoding.md R72, 60_exceptions.md R116: a word with a set RSV bit or an OP above 0x0A is accepted at
issue like any other word, and its completion raises ERR_ILLEGAL_OP with FIELD = CMD, records L.cmd[7:0] as
written, and changes nothing else. -/
def Obligations.IllegalWordCompletesWithIllegalOp : Prop :=
  ∀ (s : State) (w : Word), (w >>> 8 ≠ 0 ∨ 0x0A < w.toNat % 256) →
    (s.status.busy = false →
      (s.hostWrite .b32 0x018 w).latch.cmd = w ∧ (s.hostWrite .b32 0x018 w).cmd = w ∧
      (s.hostWrite .b32 0x018 w).status.busy = true) ∧
    (s.status.busy = true → s.latch.cmd = w → s.nextTurn = .core →
      ∃ t, step s = .next t ∧ FailsWith s.popTurn t .illegalOp .cmd)

/-! ## Steps -/

/-- 10_state.md R39, 30_encoding.md R68: when the core moves and the word in flight decodes to `i`, the step is
the completion of `i`, on the state whose list of turns has lost its head; and a table word placed for the
next step is run by it. -/
def Obligations.StepRunsDecodedCommand : Prop :=
  (∀ (s : State) (i : Instr), s.status.busy = true → decode s.latch.cmd = .ok i → s.nextTurn = .core →
    step s = exec i s.popTurn) ∧
  (∀ (s : State) (i : Instr), step (s.withFetchWord 32 (encode i).toNat) = exec i (s.issue (encode i))) ∧
  (∀ i : Instr, decodeTableWord 32 (encode i).toNat = some i)

/-- 10_state.md R39, 60_exceptions.md R133: with BUSY = 0 the core takes no step; a host whose program has
ended takes none either (the model's choice for an idle machine: log 2). -/
def Obligations.IdleAgentsChangeNothing : Prop :=
  (∀ s : State, s.status.busy = false → s.nextTurn = .core → step s = .next s.popTurn) ∧
  (∀ s : State, s.hostStmt? = none → s.nextTurn = .host → step s = .next s.popTurn)

/-- 70_reset_and_hazards.md R147, 00_scope.md R14: however many host turns fall between an issue and its
completion, the command stays in flight through them, and the core's turn then completes it. -/
def Obligations.CompletionAfterAnyNumberOfHostTurns : Prop :=
  ∀ (n : Nat) (s u : State) (rest : List Turn), s.status.busy = true →
    s.sched = List.replicate n .host ++ .core :: rest → Host.Core.run core n s = .next u →
    u.status.busy = true ∧
    ∃ t, step u = .next t ∧ t.status.busy = false ∧ t.status.done = true ∧ t.sched = rest

/-- 60_exceptions.md R134, 10_state.md R39: every command, on every state, completes: no operand and no state
makes it stop. -/
def Obligations.EveryCommandCompletes : Prop :=
  ∀ (i : Instr) (s : State), ∃ t, exec i s = .next t ∧ t.status.busy = false ∧ t.status.done = true ∧
    CommandFrame s t

/-! ## Reset -/

/-- 10_state.md R42: every register after reset, read through the window; idle; irq low. (DBUF, V and the latch
are unspecified there, so nothing is said of them.) -/
def Obligations.ResetStateHoldsSpecValues : Prop :=
  let s := State.reset
  s.readReg .id = 0x53435259 ∧ s.readReg .param = 0x0001010A ∧ s.readReg .dbufsz = 0x00000400 ∧
  s.readReg .cap = 0 ∧ s.readReg .ctrl = 0 ∧ s.readReg .status = 0 ∧ s.readReg .cmd = 0 ∧
  s.readReg .errinfo = 0 ∧ (∀ r, s.readReg (.op r) = 0) ∧
  s.readReg (.digest 0) = 0x6a09e667 ∧ s.readReg (.digest 1) = 0xbb67ae85 ∧
  s.readReg (.digest 2) = 0x3c6ef372 ∧ s.readReg (.digest 3) = 0xa54ff53a ∧
  s.readReg (.digest 4) = 0x510e527f ∧ s.readReg (.digest 5) = 0x9b05688c ∧
  s.readReg (.digest 6) = 0x1f83d9ab ∧ s.readReg (.digest 7) = 0x5be0cd19 ∧
  s.status.busy = false ∧ s.irq = false

/-- 70_reset_and_hazards.md R135, R137, R138: a reset step, in any state, gives every register its reset value,
discards a command in flight without signalling completion, and draws DBUF afresh (the draw as a function of
the reset count: log 3). The host and the parameters are not the core's (log 10). -/
def Obligations.ResetStepFromAnyState : Prop :=
  ∀ s : State, s.nextTurn = .reset →
    ∃ t, step s = .next t ∧ (∀ r, t.readReg r = State.reset.readReg r) ∧
      t.status.busy = false ∧ t.status.done = false ∧ t.irq = false ∧
      (∀ a, t.dbufByte a = Config.dbufDraw (s.resets + 1) a) ∧ t.scratch = [] ∧
      t.build = s.build ∧ t.platform = s.platform ∧ t.host = s.host ∧ t.sched = s.sched.tail

/-! ## Invariants -/

/-- The invariant holds after reset. -/
def Obligations.InvariantHoldsAtReset : Prop := Inv State.reset

/-- Every step of every agent keeps the invariant: the canonical forms of DBUF and V, and what the spec
promises of CAP, STATUS, ERRINFO and the CMD read-back (the clauses and their rules: `Inv`). -/
def Obligations.EveryStepKeepsInvariant : Prop :=
  ∀ s t : State, Inv s → step s = .next t → Inv t

/-- No step changes a build or platform parameter. The build parameters VEC_PRESENT and SCRATCH_AVAIL differ
between builds (00_scope.md R9; held in State: log 7); the platform parameters are those of 92_eei_decisions.md
D39, D40 and D42, and that no step changes them is the model's choice (log 15). -/
def Obligations.EveryStepKeepsParameters : Prop :=
  ∀ s t : State, step s = .next t → t.build = s.build ∧ t.platform = s.platform

/-- 10_state.md R41: between resets CAP is written at most once, both fields in one step. -/
def Obligations.CapIsWrittenOncePerReset : Prop :=
  ∀ s t : State, step s = .next t → s.nextTurn ≠ .reset →
    t.cap = s.cap ∨ (s.cap.detected = false ∧ t.cap = ⟨true, s.build.vecPresent⟩)

/-- 10_state.md R36: only issue, completion and reset change the sequencer state. -/
def Obligations.OnlyIssueCompletionResetChangeBusy : Prop :=
  ∀ s t : State, step s = .next t →
    (s.status.busy = false → t.status.busy = true →
      s.nextTurn = .host ∧ ∃ w, s.hostStmt? = some (.write .b32 0x018 w)) ∧
    (s.status.busy = true → t.status.busy = false → s.nextTurn = .core ∨ s.nextTurn = .reset)

/-- 10_state.md R25: OVERRUN, BUSY_ACC and BUS_ERR are cleared only by a host writing 1 to their own STATUS bit
and by reset. -/
def Obligations.StickyBitsClearedOnlyByW1C : Prop :=
  ∀ s t : State, step s = .next t → s.nextTurn ≠ .reset →
    (s.status.overrun = true → t.status.overrun = false →
      s.nextTurn = .host ∧ ∃ w, s.hostStmt? = some (.write .b32 0x014 w) ∧ w.getLsbD 3 = true) ∧
    (s.status.busyAcc = true → t.status.busyAcc = false →
      s.nextTurn = .host ∧ ∃ w, s.hostStmt? = some (.write .b32 0x014 w) ∧ w.getLsbD 4 = true) ∧
    (s.status.busErr = true → t.status.busErr = false →
      s.nextTurn = .host ∧ ∃ w, s.hostStmt? = some (.write .b32 0x014 w) ∧ w.getLsbD 5 = true)

/-- 10_state.md R30: the digest registers are written only by the completions of SHA256_INIT and
SHA256_COMPRESS (and by reset). -/
def Obligations.DigestRegistersWrittenOnlyByInitAndCompress : Prop :=
  ∀ s t : State, step s = .next t → s.nextTurn ≠ .reset → t.h ≠ s.h →
    s.nextTurn = .core ∧ s.status.busy = true ∧ (s.latch.cmd = 0x00000001 ∨ s.latch.cmd = 0x00000002)

/-- 70_reset_and_hazards.md R144, 20_memory.md R60, R64: while a command is in flight no host step changes DBUF,
H, CAP, ERR, PATH or ERRINFO, nor anything the command will read: its latch, V, or the CMD read-back. -/
def Obligations.HostCannotDisturbCommandInFlight : Prop :=
  ∀ s t : State, step s = .next t → s.status.busy = true → s.nextTurn = .host →
    DbufSame s t ∧ t.h = s.h ∧ t.cap = s.cap ∧ t.scratch = s.scratch ∧ t.latch = s.latch ∧ t.cmd = s.cmd ∧
    t.errinfo = s.errinfo ∧ t.status.path = s.status.path ∧ t.status.busy = true ∧
    (s.status.err = .ok → t.status.err = .ok)

/-! ## The register window -/

/-- 10_state.md R18 to R30: what an aligned 32-bit read of each register returns. -/
def Obligations.RegisterMapReads : Prop :=
  ∀ s : State,
    s.hostRead .b32 0x000 = (s, 0x53435259) ∧ s.hostRead .b32 0x004 = (s, 0x0001010A) ∧
    s.hostRead .b32 0x008 = (s, 0x00000400) ∧ s.hostRead .b32 0x00C = (s, s.cap.word) ∧
    s.hostRead .b32 0x010 = (s, s.ctrl.word) ∧ s.hostRead .b32 0x014 = (s, s.status.word) ∧
    s.hostRead .b32 0x018 = (s, s.cmd) ∧ s.hostRead .b32 0x01C = (s, s.errinfo.word) ∧
    s.hostRead .b32 0x020 = (s, s.ops.src0) ∧ s.hostRead .b32 0x024 = (s, s.ops.src1) ∧
    s.hostRead .b32 0x028 = (s, s.ops.dst) ∧ s.hostRead .b32 0x02C = (s, s.ops.len0) ∧
    s.hostRead .b32 0x030 = (s, s.ops.len1) ∧ s.hostRead .b32 0x034 = (s, s.ops.len2) ∧
    s.hostRead .b32 0x038 = (s, s.ops.iter) ∧
    ∀ k : Fin 8, s.hostRead .b32 (BitVec.ofNat 11 (0x040 + 4 * k.val)) = (s, s.h[k])

/-- 10_state.md R23 to R25, R28, 60_exceptions.md R114: the bits of STATUS, CTRL, CAP and ERRINFO as read; every
reserved bit reads 0. -/
def Obligations.StatusAndControlWordLayout : Prop :=
  (∀ st : Status,
    st.word.getLsbD 0 = st.busy ∧ st.word.getLsbD 1 = st.done ∧ st.word.getLsbD 2 = st.path ∧
    st.word.getLsbD 3 = st.overrun ∧ st.word.getLsbD 4 = st.busyAcc ∧ st.word.getLsbD 5 = st.busErr ∧
    st.word.extractLsb' 6 2 = 0 ∧ st.word.extractLsb' 8 4 = st.err.code ∧ st.word.extractLsb' 12 20 = 0) ∧
  (∀ c : Ctrl, c.word.getLsbD 0 = c.ie ∧ c.word.getLsbD 1 = c.forceScalar ∧ c.word.extractLsb' 2 30 = 0) ∧
  (∀ c : Cap, c.word.getLsbD 0 = c.detected ∧ c.word.getLsbD 1 = c.vec ∧ c.word.extractLsb' 2 30 = 0) ∧
  (∀ e : ErrInfo, e.word.extractLsb' 0 8 = e.op ∧ e.word.extractLsb' 8 4 = e.field.code ∧
    e.word.extractLsb' 12 20 = 0) ∧
  (ErrCode.code .ok = 0 ∧ ErrCode.code .illegalOp = 1 ∧ ErrCode.code .inLen = 2 ∧ ErrCode.code .outLen = 3 ∧
    ErrCode.code .param = 4 ∧ ErrCode.code .range = 5 ∧ ErrCode.code .alloc = 6) ∧
  (ErrField.code .none = 0 ∧ ErrField.code .cmd = 1 ∧ ErrField.code .src0 = 2 ∧ ErrField.code .src1 = 3 ∧
    ErrField.code .dst = 4 ∧ ErrField.code .len0 = 5 ∧ ErrField.code .len1 = 6 ∧ ErrField.code .len2 = 7 ∧
    ErrField.code .iter = 8 ∧ ErrField.code .scratch = 9)

/-- 10_state.md R19: an aligned read of a reserved CSR offset returns 0; an aligned write to a reserved offset or
a read-only register changes no state; reserved bits of a register ignore writes and read 0; a CSR access that
is not an aligned word is a bus error. -/
def Obligations.ReservedAndReadOnlyOffsets : Prop :=
  (∀ (s : State) (off : Offset) (v : Word), off.toNat % 4 = 0 →
    (off = 0x03C ∨ (0x060 ≤ off.toNat ∧ off.toNat ≤ 0x3FC)) →
    s.hostRead .b32 off = (s, 0) ∧ s.hostWrite .b32 off v = s) ∧
  (∀ (s : State) (off : Offset) (v : Word), off.toNat % 4 = 0 →
    (off.toNat ≤ 0x00C ∨ off = 0x01C ∨ (0x040 ≤ off.toNat ∧ off.toNat ≤ 0x05C)) →
    s.hostWrite .b32 off v = s) ∧
  (∀ (s : State) (v : Word), ((s.hostWrite .b32 0x010 v).hostRead .b32 0x010).2 = v &&& 0x3 ∧
    s.hostWrite .b32 0x014 v = s.hostWrite .b32 0x014 (v &&& 0x3A)) ∧
  (∀ s : State, (s.hostRead .b32 0x004).2.extractLsb' 24 8 = 0 ∧
    (s.hostRead .b32 0x00C).2.extractLsb' 2 30 = 0 ∧ (s.hostRead .b32 0x010).2.extractLsb' 2 30 = 0 ∧
    (s.hostRead .b32 0x014).2.extractLsb' 6 2 = 0 ∧ (s.hostRead .b32 0x014).2.extractLsb' 12 20 = 0 ∧
    (s.hostRead .b32 0x01C).2.extractLsb' 12 20 = 0) ∧
  (∀ (s : State) (size : Size) (off : Offset) (v : Word), off.toNat < 0x400 →
    ¬ (size = .b32 ∧ off.toNat % 4 = 0) →
    s.hostRead size off = ({ s with status := { s.status with busErr := true } }, 0) ∧
    s.hostWrite size off v = { s with status := { s.status with busErr := true } })

/-- 20_memory.md R54: the bus errors; each sets BUS_ERR, reads 0 and changes nothing else. That a write to a DBUF
offset does so also with BUSY = 1, leaving BUSY_ACC alone, is read from R54 by inference (log 12, DEDUCED, and
unsafe for this claim); every number under `.other`, 8 and 32 among them, stands for an unsupported size (log
16). -/
def Obligations.BusErrorSetsBusErrOnly : Prop :=
  ∀ (s : State) (size : Size) (off : Offset) (v : Word),
    ((size = .b32 ∧ off.toNat % 4 ≠ 0) ∨ (size = .b8 ∧ off.toNat < 0x400) ∨ ∃ bits, size = .other bits) →
    s.hostRead size off = ({ s with status := { s.status with busErr := true } }, 0) ∧
    s.hostWrite size off v = { s with status := { s.status with busErr := true } }

/-- 20_memory.md R56: no legal read has a side effect; only a DBUF read while BUSY = 1 advances the model's
counter of drawn values (log 4), and nothing of the core changes even then. -/
def Obligations.ReadsHaveNoSideEffect : Prop :=
  ∀ (s : State) (size : Size) (off : Offset),
    (size = .b32 ∧ off.toNat % 4 = 0) ∨ (size = .b8 ∧ 0x400 ≤ off.toNat) →
    ((off.toNat < 0x400 ∨ s.status.busy = false) → (s.hostRead size off).1 = s) ∧
    ∃ n, (s.hostRead size off).1 = { s with draws := n }

/-- 20_memory.md R50: a 32-bit DBUF write stores byte k of the word at byte offset k, an 8-bit write one byte;
a 32-bit read gives the written word back, and is the four bytes that four 8-bit reads see; all other bytes
read as before, a write changes nothing but DBUF, and a read nothing at all. That an 8-bit write stores the low
byte of a 32-bit value, and that an 8-bit read is widened with zeros, is the model's choice (log 9). -/
def Obligations.HostDbufAccessIsLittleEndian : Prop :=
  ∀ (s : State) (off : Offset) (v : Word), 0x400 ≤ off.toNat → s.status.busy = false →
    (off.toNat % 4 = 0 →
      (∀ k, k < 4 → (s.hostWrite .b32 off v).dbufByte (off.toNat - 0x400 + k) = v.extractLsb' (8 * k) 8) ∧
      DbufSameOutside s (s.hostWrite .b32 off v) (off.toNat - 0x400) 4 ∧
      (∃ m, s.hostWrite .b32 off v = { s with dbuf := m }) ∧
      ((s.hostWrite .b32 off v).hostRead .b32 off).2 = v ∧
      (∀ k, k < 4 → ((s.hostRead .b32 off).2.extractLsb' (8 * k) 8).setWidth 32 =
        (s.hostRead .b8 (off + BitVec.ofNat 11 k)).2) ∧
      (s.hostRead .b32 off).1 = s) ∧
    (s.hostWrite .b8 off v).dbufByte (off.toNat - 0x400) = v.setWidth 8 ∧
    DbufSameOutside s (s.hostWrite .b8 off v) (off.toNat - 0x400) 1 ∧
    (∃ m, s.hostWrite .b8 off v = { s with dbuf := m }) ∧
    s.hostRead .b8 off = (s, (s.dbufByte (off.toNat - 0x400)).setWidth 32)

/-- 10_state.md R27, R38: a CMD write with BUSY = 0 issues its word, whatever the word, and latches the operand
registers and FORCE_SCALAR; with BUSY = 1 it is dropped and sets OVERRUN; CMD reads the last word accepted, and
0 after reset. -/
def Obligations.CmdWriteIssuesOrOverruns : Prop :=
  (State.reset.hostRead .b32 0x018).2 = 0 ∧
  ∀ (s : State) (w : Word),
    (s.status.busy = false →
      s.hostWrite .b32 0x018 w =
        { s with
          latch := ⟨w, s.ops, s.ctrl.forceScalar⟩
          cmd := w
          status := { s.status with busy := true, done := false, err := .ok } } ∧
      ((s.hostWrite .b32 0x018 w).hostRead .b32 0x018).2 = w) ∧
    (s.status.busy = true →
      s.hostWrite .b32 0x018 w = { s with status := { s.status with overrun := true } } ∧
      ((s.hostWrite .b32 0x018 w).hostRead .b32 0x018).2 = s.cmd)

/-- 20_memory.md R61: while BUSY = 1 a host write to DBUF is dropped and sets BUSY_ACC, and what a host read of
DBUF returns does not depend on the contents of DBUF. The read clause compares the draws of two states with the
same count of draws; that a draw is a function of that count is the model's choice (log 4, which names this as
its unsafe case). -/
def Obligations.DbufBelongsToTheCoreWhileBusy : Prop :=
  ∀ (s : State) (size : Size) (off : Offset) (v : Word), s.status.busy = true → 0x400 ≤ off.toNat →
    ((size = .b32 ∧ off.toNat % 4 = 0) ∨ size = .b8) →
    s.hostWrite size off v = { s with status := { s.status with busyAcc := true } } ∧
    ∀ m : Memory, (({ s with dbuf := m } : State).hostRead size off).2 = (s.hostRead size off).2

/-- 10_state.md R26: a STATUS write clears DONE together with ERR, OVERRUN, BUSY_ACC and BUS_ERR where its bits
1, 3, 4 and 5 are 1; every other field keeps its value. -/
def Obligations.StatusWriteClearsMarkedBits : Prop :=
  ∀ (s : State) (w : Word), ∃ st : Status,
    s.hostWrite .b32 0x014 w = { s with status := st } ∧
    st.done = (s.status.done && !w.getLsbD 1) ∧
    (w.getLsbD 1 = true → st.err = .ok) ∧ (w.getLsbD 1 = false → st.err = s.status.err) ∧
    st.overrun = (s.status.overrun && !w.getLsbD 3) ∧
    st.busyAcc = (s.status.busyAcc && !w.getLsbD 4) ∧
    st.busErr = (s.status.busErr && !w.getLsbD 5) ∧
    st.busy = s.status.busy ∧ st.path = s.status.path

/-- 10_state.md R24, R29: a write to an operand register or to CTRL takes effect in the register at once, even
while BUSY = 1, reads back (CTRL in its two fields, the reserved bits reading 0), and leaves every other register
and the latch alone. -/
def Obligations.OperandAndControlWrites : Prop :=
  (∀ (s : State) (r : OpReg) (v : Word), ∃ o : OpRegs,
    s.hostWrite .b32 (opRegOffset r) v = { s with ops := o } ∧ o.get r = v ∧
    (∀ q, q ≠ r → o.get q = s.ops.get q) ∧
    ((s.hostWrite .b32 (opRegOffset r) v).hostRead .b32 (opRegOffset r)).2 = v) ∧
  (∀ (s : State) (v : Word),
    s.hostWrite .b32 0x010 v = { s with ctrl := ⟨v.getLsbD 0, v.getLsbD 1⟩ } ∧
    ((s.hostWrite .b32 0x010 v).hostRead .b32 0x010).2 = v &&& 0x3)

/-- 20_memory.md R64, 70_reset_and_hazards.md R146: a write to an operand register or to CTRL before the
completion gives the same as the same write after it: it does not affect the command in flight. -/
def Obligations.LaterWritesDoNotAffectCommandInFlight : Prop :=
  ∀ (i : Instr) (s : State) (r : OpReg) (v : Word), ∃ t,
    exec i s = .next t ∧
    exec i (s.hostWrite .b32 (opRegOffset r) v) = .next (t.hostWrite .b32 (opRegOffset r) v) ∧
    exec i (s.hostWrite .b32 0x010 v) = .next (t.hostWrite .b32 0x010 v)

/-- 60_exceptions.md R125, 10_state.md R35: irq is IE & DONE; a completion, with or without error, raises it iff
IE = 1; a 1 written to DONE, an issue, or clearing IE lowers it, the last without clearing DONE; the host-access
events (a CMD or DBUF write while BUSY = 1, a bus error) do not set DONE and do not raise it. -/
def Obligations.IrqFollowsEnableAndDone : Prop :=
  ∀ s : State,
    (s.irq = true ↔ s.ctrl.ie = true ∧ s.status.done = true) ∧
    (∀ t, s.complete = .next t → t.irq = s.ctrl.ie) ∧
    (∀ w : Word, w.getLsbD 1 = true → (s.hostWrite .b32 0x014 w).irq = false) ∧
    (∀ w, s.status.busy = false → (s.hostWrite .b32 0x018 w).irq = false) ∧
    (∀ w : Word, w.getLsbD 0 = false → (s.hostWrite .b32 0x010 w).irq = false ∧
      (s.hostWrite .b32 0x010 w).status.done = s.status.done) ∧
    (∀ w, s.status.busy = true → (s.hostWrite .b32 0x018 w).irq = s.irq ∧
      (s.hostWrite .b32 0x018 w).status.done = s.status.done) ∧
    (∀ size off v, s.status.busy = true → 0x400 ≤ off.toNat → (s.hostWrite size off v).irq = s.irq ∧
      (s.hostWrite size off v).status.done = s.status.done) ∧
    (∀ size off v, legalAccess size off = false → (s.hostWrite size off v).irq = s.irq ∧
      (s.hostWrite size off v).status.done = s.status.done) ∧
    (∀ size off, (s.hostRead size off).1.irq = s.irq ∧ (s.hostRead size off).1.status.done = s.status.done)

/-! ## Commands

Each statement says when the command completes without error and what it then writes, its frame, and the
errors it raises otherwise, in the order of 60_exceptions.md R122. -/

/-- 44_scrypt_dispatch.md R112. -/
def Obligations.NopCompletesWithNoEffect : Prop :=
  ∀ s : State, s.latch.cmd = 0x00000000 → ∃ t, exec .nop s = .next t ∧ CompletesOk s t 0x00 false ∧
    t.h = s.h ∧ t.cap = s.cap ∧ t.scratch = s.scratch ∧ DbufSame s t

/-- 40_sha256.md R82. -/
def Obligations.Sha256InitLoadsInitialValue : Prop :=
  ∀ s : State, s.latch.cmd = 0x00000001 → ∃ t, exec .sha256Init s = .next t ∧ CompletesOk s t 0x01 false ∧
    t.h = #v[0x6a09e667, 0xbb67ae85, 0x3c6ef372, 0xa54ff53a, 0x510e527f, 0x9b05688c, 0x1f83d9ab, 0x5be0cd19] ∧
    t.cap = s.cap ∧ t.scratch = s.scratch ∧ DbufSame s t

/-- 40_sha256.md R83. -/
def Obligations.Sha256CompressChainsOneBlock : Prop :=
  ∀ s : State, s.latch.cmd = 0x00000002 →
    (s.latch.ops.src0.toNat + 64 ≤ 1024 → ∃ t, exec .sha256Compress s = .next t ∧
      CompletesOk s t 0x02 false ∧
      t.h = compress s.h (s.memRead s.latch.ops.src0.toNat 64) ∧
      t.cap = s.cap ∧ t.scratch = s.scratch ∧ DbufSame s t) ∧
    (1024 < s.latch.ops.src0.toNat + 64 → Fails .sha256Compress s .range .src0)

/-- 40_sha256.md R84. -/
def Obligations.Sha256DigestWritesDigest : Prop :=
  ∀ (s : State) (src len dst : Nat), s.latch.cmd = 0x00000003 →
    src = s.latch.ops.src0.toNat → len = s.latch.ops.len0.toNat → dst = s.latch.ops.dst.toNat →
    (src + len ≤ 1024 → dst + 32 ≤ 1024 → ∃ t, exec .sha256Digest s = .next t ∧
      CompletesOk s t 0x03 false ∧
      t.memRead dst 32 = sha256 (s.memRead src len) ∧ DbufSameOutside s t dst 32 ∧
      t.h = s.h ∧ t.cap = s.cap ∧ t.scratch = s.scratch) ∧
    (1024 < src + len → Fails .sha256Digest s .range .src0) ∧
    (src + len ≤ 1024 → 1024 < dst + 32 → Fails .sha256Digest s .range .dst)

/-- 41_hmac_pbkdf2.md R86. -/
def Obligations.HmacSha256WritesMac : Prop :=
  ∀ (s : State) (key keyLen msg msgLen dst : Nat), s.latch.cmd = 0x00000004 →
    key = s.latch.ops.src0.toNat → keyLen = s.latch.ops.len0.toNat →
    msg = s.latch.ops.src1.toNat → msgLen = s.latch.ops.len1.toNat → dst = s.latch.ops.dst.toNat →
    (key + keyLen ≤ 1024 → msg + msgLen ≤ 1024 → dst + 32 ≤ 1024 → ∃ t, exec .hmacSha256 s = .next t ∧
      CompletesOk s t 0x04 false ∧
      t.memRead dst 32 = hmac (s.memRead key keyLen) (s.memRead msg msgLen) ∧ DbufSameOutside s t dst 32 ∧
      t.h = s.h ∧ t.cap = s.cap ∧ t.scratch = s.scratch) ∧
    (1024 < key + keyLen → Fails .hmacSha256 s .range .src0) ∧
    (key + keyLen ≤ 1024 → 1024 < msg + msgLen → Fails .hmacSha256 s .range .src1) ∧
    (key + keyLen ≤ 1024 → msg + msgLen ≤ 1024 → 1024 < dst + 32 → Fails .hmacSha256 s .range .dst)

/-- 41_hmac_pbkdf2.md R89. -/
def Obligations.Pbkdf2Sha256WritesDerivedKey : Prop :=
  ∀ (s : State) (pw pwLen salt saltLen c dkLen dst : Nat), s.latch.cmd = 0x00000005 →
    pw = s.latch.ops.src0.toNat → pwLen = s.latch.ops.len0.toNat →
    salt = s.latch.ops.src1.toNat → saltLen = s.latch.ops.len1.toNat →
    c = s.latch.ops.iter.toNat → dkLen = s.latch.ops.len2.toNat → dst = s.latch.ops.dst.toNat →
    (1 ≤ dkLen → 1 ≤ c → pw + pwLen ≤ 1024 → salt + saltLen ≤ 1024 → dst + dkLen ≤ 1024 →
      ∃ t, exec .pbkdf2Sha256 s = .next t ∧ CompletesOk s t 0x05 false ∧
        t.memRead dst dkLen = pbkdf2 (s.memRead pw pwLen) (s.memRead salt saltLen) c dkLen ∧
        DbufSameOutside s t dst dkLen ∧ t.h = s.h ∧ t.cap = s.cap ∧ t.scratch = s.scratch) ∧
    (dkLen = 0 → Fails .pbkdf2Sha256 s .outLen .len2) ∧
    (1 ≤ dkLen → c = 0 → Fails .pbkdf2Sha256 s .param .iter) ∧
    (1 ≤ dkLen → 1 ≤ c → 1024 < pw + pwLen → Fails .pbkdf2Sha256 s .range .src0) ∧
    (1 ≤ dkLen → 1 ≤ c → pw + pwLen ≤ 1024 → 1024 < salt + saltLen →
      Fails .pbkdf2Sha256 s .range .src1) ∧
    (1 ≤ dkLen → 1 ≤ c → pw + pwLen ≤ 1024 → salt + saltLen ≤ 1024 → 1024 < dst + dkLen →
      Fails .pbkdf2Sha256 s .range .dst)

/-- 42_salsa_blockmix.md R94, with SelectPath of 44_scrypt_dispatch.md R107. -/
def Obligations.Salsa208WritesPermutedSubBlock : Prop :=
  ∀ (s : State) (src dst : Nat), s.latch.cmd = 0x00000006 →
    src = s.latch.ops.src0.toNat → dst = s.latch.ops.dst.toNat →
    (src + 64 ≤ 1024 → dst + 64 ≤ 1024 → ∃ t, exec .salsa208 s = .next t ∧
      CompletesOk s t 0x06
        ((if s.cap.detected then s.cap.vec else s.build.vecPresent) && !s.latch.forceScalar) ∧
      t.memRead dst 64 = salsa20_8 (s.memRead src 64) ∧ DbufSameOutside s t dst 64 ∧
      CapDetected s t ∧ t.h = s.h ∧ t.scratch = s.scratch) ∧
    (1024 < src + 64 → Fails .salsa208 s .range .src0) ∧
    (src + 64 ≤ 1024 → 1024 < dst + 64 → Fails .salsa208 s .range .dst)

/-- 42_salsa_blockmix.md R97, with SelectPath of 44_scrypt_dispatch.md R107. -/
def Obligations.BlockmixWritesMixedBlock : Prop :=
  ∀ (s : State) (src dst : Nat), s.latch.cmd = 0x00000007 →
    src = s.latch.ops.src0.toNat → dst = s.latch.ops.dst.toNat →
    (src + 128 ≤ 1024 → dst + 128 ≤ 1024 → ∃ t, exec .blockmix s = .next t ∧
      CompletesOk s t 0x07
        ((if s.cap.detected then s.cap.vec else s.build.vecPresent) && !s.latch.forceScalar) ∧
      t.memRead dst 128 = blockMix (s.memRead src 128) ∧ DbufSameOutside s t dst 128 ∧
      CapDetected s t ∧ t.h = s.h ∧ t.scratch = s.scratch) ∧
    (1024 < src + 128 → Fails .blockmix s .range .src0) ∧
    (src + 128 ≤ 1024 → 1024 < dst + 128 → Fails .blockmix s .range .dst)

/-- 43_romix.md R104, with SelectPath of 44_scrypt_dispatch.md R107. -/
def Obligations.RomixWritesMixedBlock : Prop :=
  ∀ (s : State) (src dst : Nat), s.latch.cmd = 0x00000008 →
    src = s.latch.ops.src0.toNat → dst = s.latch.ops.dst.toNat →
    (src + 128 ≤ 1024 → dst + 128 ≤ 1024 → 131072 ≤ s.build.scratchAvail → ∃ t, exec .romix s = .next t ∧
      CompletesOk s t 0x08
        ((if s.cap.detected then s.cap.vec else s.build.vecPresent) && !s.latch.forceScalar) ∧
      t.memRead dst 128 = (romix s.resets s.scratch (s.memRead src 128)).2 ∧ DbufSameOutside s t dst 128 ∧
      t.scratch = (romix s.resets s.scratch (s.memRead src 128)).1 ∧ CapDetected s t ∧ t.h = s.h) ∧
    (1024 < src + 128 → Fails .romix s .range .src0) ∧
    (src + 128 ≤ 1024 → 1024 < dst + 128 → Fails .romix s .range .dst) ∧
    (src + 128 ≤ 1024 → dst + 128 ≤ 1024 → s.build.scratchAvail < 131072 → Fails .romix s .alloc .scratch)

/-- 44_scrypt_dispatch.md R106, with SelectPath of R107. -/
def Obligations.ScryptWritesDigest : Prop :=
  ∀ (s : State) (src len dst outLen : Nat), s.latch.cmd = 0x00000009 →
    src = s.latch.ops.src0.toNat → len = s.latch.ops.len0.toNat →
    dst = s.latch.ops.dst.toNat → outLen = s.latch.ops.len2.toNat →
    (len = 80 → outLen = 32 → src + 80 ≤ 1024 → dst + 32 ≤ 1024 → 131072 ≤ s.build.scratchAvail →
      ∃ t, exec .scrypt s = .next t ∧
        CompletesOk s t 0x09
          ((if s.cap.detected then s.cap.vec else s.build.vecPresent) && !s.latch.forceScalar) ∧
        t.memRead dst 32 = (Machine.scrypt s.resets s.scratch (s.memRead src 80)).2 ∧
        DbufSameOutside s t dst 32 ∧
        t.scratch = (romix s.resets s.scratch (pbkdf2 (s.memRead src 80) (s.memRead src 80) 1 128)).1 ∧
        CapDetected s t ∧ t.h = s.h) ∧
    (len ≠ 80 → Fails .scrypt s .inLen .len0) ∧
    (len = 80 → outLen ≠ 32 → Fails .scrypt s .outLen .len2) ∧
    (len = 80 → outLen = 32 → 1024 < src + 80 → Fails .scrypt s .range .src0) ∧
    (len = 80 → outLen = 32 → src + 80 ≤ 1024 → 1024 < dst + 32 → Fails .scrypt s .range .dst) ∧
    (len = 80 → outLen = 32 → src + 80 ≤ 1024 → dst + 32 ≤ 1024 → s.build.scratchAvail < 131072 →
      Fails .scrypt s .alloc .scratch)

/-- 44_scrypt_dispatch.md R110. -/
def Obligations.DetectLatchesCapability : Prop :=
  ∀ s : State, s.latch.cmd = 0x0000000A → ∃ t, exec .detect s = .next t ∧ CompletesOk s t 0x0A false ∧
    CapDetected s t ∧ t.h = s.h ∧ t.scratch = s.scratch ∧ DbufSame s t

/-! ## Whole-machine rules over the commands -/

/-- 60_exceptions.md R115: a completion that ends in error, of a command or of an illegal word, changes STATUS
and ERRINFO only. -/
def Obligations.FailedCommandChangesNothingElse : Prop :=
  (∀ (i : Instr) (s t : State), exec i s = .next t → t.status.err ≠ .ok →
    FailsWith s t t.status.err t.errinfo.field ∧ t.errinfo.field ≠ .none) ∧
  (∀ s t : State, s.complete = .next t → t.status.err ≠ .ok →
    FailsWith s t t.status.err t.errinfo.field ∧ t.errinfo.field ≠ .none)

/-- 60_exceptions.md R114: which commands raise which code. -/
def Obligations.ErrorCodesRaisedBy : Prop :=
  ∀ (i : Instr) (s t : State), exec i s = .next t →
    t.status.err ≠ .illegalOp ∧
    (t.status.err = .inLen → i = .scrypt) ∧
    (t.status.err = .outLen → i = .scrypt ∨ i = .pbkdf2Sha256) ∧
    (t.status.err = .param → i = .pbkdf2Sha256) ∧
    (t.status.err = .range → i ≠ .nop ∧ i ≠ .sha256Init ∧ i ≠ .detect) ∧
    (t.status.err = .alloc → i = .romix ∨ i = .scrypt)

/-- 44_scrypt_dispatch.md R111: two states that differ only in what selects the datapath (the latched
FORCE_SCALAR, CAP, VEC_PRESENT) complete a command with the same DBUF, H, V, ERR and ERRINFO; and where they
differ in the latched FORCE_SCALAR alone, the completions differ in STATUS.PATH alone (and in the latch, which
keeps what it held). -/
def Obligations.DatapathNeverChangesResults : Prop :=
  (∀ (i : Instr) (s : State) (force vec : Bool) (cap : Cap), ∃ t u,
    exec i s = .next t ∧
    exec i { s with
      latch := { s.latch with forceScalar := force }
      build := { s.build with vecPresent := vec }
      cap := cap } = .next u ∧
    DbufSame t u ∧ u.h = t.h ∧ u.scratch = t.scratch ∧ u.status.err = t.status.err ∧ u.errinfo = t.errinfo) ∧
  (∀ (i : Instr) (s : State) (force : Bool), ∃ (t : State) (path : Bool),
    exec i s = .next t ∧
    exec i { s with latch := { s.latch with forceScalar := force } } =
      .next { t with
        latch := { t.latch with forceScalar := force }
        status := { t.status with path := path } })

/-! ## The algorithms -/

/-- 40_sha256.md R80: the padded message is the message, a byte 0x80, the least number of zeros that makes whole
64-byte blocks, and the bit length; one block for len <= 55, two for 56 <= len <= 119. -/
def Obligations.PaddingFillsWholeBlocks : Prop :=
  ∀ m : Bytes, ∃ k : Nat,
    pad m = m ++ [0x80] ++ List.replicate k 0 ++ be64 (BitVec.ofNat 64 (8 * m.length)) ∧
    (m.length + 1 + k + 8) % 64 = 0 ∧ (∀ k', (m.length + 1 + k' + 8) % 64 = 0 → k ≤ k') ∧
    (pad m).length % 64 = 0 ∧
    (m.length ≤ 55 → (pad m).length = 64) ∧
    (56 ≤ m.length → m.length ≤ 119 → (pad m).length = 128)

/-- 41_hmac_pbkdf2.md R85, R86: zero-padding a key up to 64 bytes does not change the MAC, and a longer key is
used as its digest. -/
def Obligations.HmacKeyPaddingAndHashing : Prop :=
  ∀ key msg : Bytes,
    (∀ k, key.length + k ≤ 64 → hmac (key ++ List.replicate k 0) msg = hmac key msg) ∧
    (64 < key.length → hmac key msg = hmac (sha256 key) msg)

/-- 41_hmac_pbkdf2.md R89: a shorter result is the first bytes of a longer one, and every result has the length
asked for. -/
def Obligations.Pbkdf2TruncatesToPrefix : Prop :=
  ∀ (p salt : Bytes) (c m n : Nat), m ≤ n →
    pbkdf2 p salt c m = (pbkdf2 p salt c n).take m ∧ (pbkdf2 p salt c n).length = n

/-- 42_salsa_blockmix.md R92: the four quarter-rounds of a column round, and of a row round, may run in the
opposite order. -/
def Obligations.QuarterRoundsOfARoundCommute : Prop :=
  ∀ z : Vector Word 16,
    columnRound z =
      quarterRound (quarterRound (quarterRound (quarterRound z 15 3 7 11) 10 14 2 6) 5 9 13 1) 0 4 8 12 ∧
    rowRound z =
      quarterRound (quarterRound (quarterRound (quarterRound z 15 12 13 14) 10 11 8 9) 5 6 7 4) 0 1 2 3

/-- 42_salsa_blockmix.md R95, R96: at r = 1 the general BlockMix is the form the core computes. -/
def Obligations.BlockMixIsGeneralFormAtROne : Prop :=
  ∀ b : Bytes, b.length = 128 → blockMix b = blockMixR [b.take 64, b.drop 64]

/-- 43_romix.md R98: Integerify is X[64] | ((X[65] & 3) << 8); it is the little-endian integer in the last 64
bytes, reduced mod 1024; and it is at most 1023. -/
def Obligations.IntegerifyReadsTenBits : Prop :=
  ∀ x : Bytes, x.length = 128 →
    integerify x = ((x.getD 64 0).setWidth 16 ||| (((x.getD 65 0) &&& 0x03).setWidth 16 <<< 8) : BitVec 16).toNat ∧
    integerify x = ((x.drop 64).foldr (fun b n => b.toNat + 256 * n) 0) % 1024 ∧
    integerify x ≤ 1023

/-- 43_romix.md R99, R100: the fill phase leaves V[i] = BlockMix applied i times to B, for all 1024 entries, and
the mix phase starts from BlockMix(V[1023]) (90_conflicts.md C1). -/
def Obligations.FillPhaseTable : Prop :=
  ∀ (epoch : Nat) (v : Scratch) (b : Bytes),
    (∀ j, j < 1024 → vRead epoch (romix epoch v b).1 j = blockMix^[j] b) ∧
    (romix epoch v b).2 =
      romixMix epoch (romix epoch v b).1 (blockMix (vRead epoch (romix epoch v b).1 1023))

/-- 43_romix.md R102: what V held before a ROMIX or SCRYPT never reaches a result: the output and the table are
those of any other initial V, and so is everything the commands write. -/
def Obligations.StaleScratchpadNeverReachesAResult : Prop :=
  (∀ (e e' : Nat) (v v' : Scratch) (b : Bytes),
    (romix e v b).2 = (romix e' v' b).2 ∧
    ∀ j, j < 1024 → vRead e (romix e v b).1 j = vRead e' (romix e' v' b).1 j) ∧
  (∀ (s : State) (v' : Scratch) (i : Instr), ∃ t u,
    exec i s = .next t ∧ exec i { s with scratch := v' } = .next u ∧
    DbufSame t u ∧ u.h = t.h ∧ u.cap = t.cap ∧ u.status = t.status ∧ u.errinfo = t.errinfo)

/-- 42_salsa_blockmix.md R93, R96, 43_romix.md R104: all-zero input gives all-zero output, through the 4096
Salsa20/8 applications of a ROMix. -/
def Obligations.ZeroBlockIsAFixedPoint : Prop :=
  salsa20_8 (List.replicate 64 0) = List.replicate 64 0 ∧
  blockMix (List.replicate 128 0) = List.replicate 128 0 ∧
  ∀ (epoch : Nat) (v : Scratch), (romix epoch v (List.replicate 128 0)).2 = List.replicate 128 0

/-- 44_scrypt_dispatch.md R105: the commands PBKDF2_SHA256, ROMIX, PBKDF2_SHA256, run one after another through
DBUF on an input at `a` with the block at `b`, give at `c` the digest that SCRYPT gives at `d`. -/
def Obligations.ScryptIsItsThreePasses : Prop :=
  ∀ (s : State) (a b c d : Word), 131072 ≤ s.build.scratchAvail →
    a.toNat + 80 ≤ 1024 → b.toNat + 128 ≤ 1024 → c.toNat + 32 ≤ 1024 → d.toNat + 32 ≤ 1024 →
    (a.toNat + 80 ≤ b.toNat ∨ b.toNat + 128 ≤ a.toNat) →
    ∃ t1 t2 t3 u,
      exec .pbkdf2Sha256 (s.issueWith
        { src0 := a, len0 := 80, src1 := a, len1 := 80, iter := 1, len2 := 128, dst := b } .pbkdf2Sha256)
        = .next t1 ∧
      exec .romix (t1.issueWith { t1.ops with src0 := b, dst := b } .romix) = .next t2 ∧
      exec .pbkdf2Sha256 (t2.issueWith
        { src0 := a, len0 := 80, src1 := b, len1 := 128, iter := 1, len2 := 32, dst := c } .pbkdf2Sha256)
        = .next t3 ∧
      exec .scrypt (s.issueWith { s.ops with src0 := a, len0 := 80, dst := d, len2 := 32 } .scrypt)
        = .next u ∧
      t3.status.err = .ok ∧ u.status.err = .ok ∧
      t3.memRead c.toNat 32 = u.memRead d.toNat 32

/-- 40_sha256.md R81 to R83: SHA256_INIT, then SHA256_COMPRESS on each block of a padded message that stands at
DBUF offset 0, leaves in H the digest SHA256 gives, whatever the message. -/
def Obligations.BlockByBlockHashIsTheDigest : Prop :=
  ∀ (s : State) (m : Bytes), (pad m).length ≤ 1024 → s.memRead 0 (pad m).length = pad m →
    ∃ f : Nat → State,
      exec .sha256Init (s.issueWith s.ops .sha256Init) = .next (f 0) ∧
      (∀ k, k < (pad m).length / 64 →
        exec .sha256Compress ((f k).issueWith { (f k).ops with src0 := BitVec.ofNat 32 (64 * k) }
          .sha256Compress) = .next (f (k + 1))) ∧
      digestBytes (f ((pad m).length / 64)).h = sha256 m

/-! ## The host agent -/

/-- 30_encoding.md R74: BNE goes to the label if `(x & mask) != value` and on to the next statement otherwise;
the core is not touched. The stops are the model's choice (log 9). -/
def Obligations.BranchFollowsMaskedComparison : Prop :=
  ∀ (s : State) (x : Var) (mask value : Word) (l : Label),
    (∀ v, s.host.var? x = some v →
      (v &&& mask = value →
        s.runStmt (.bne x mask value l) = .next { s with host := { s.host with pc := s.host.pc + 1 } }) ∧
      (v &&& mask ≠ value → ∀ i, labelIndex? s.host.prog l = some i →
        s.runStmt (.bne x mask value l) = .next { s with host := { s.host with pc := i } }) ∧
      (v &&& mask ≠ value → labelIndex? s.host.prog l = none →
        s.runStmt (.bne x mask value l) = .fault (.hostUnknownLabel l))) ∧
    (s.host.var? x = none → s.runStmt (.bne x mask value l) = .fault (.hostUnreadVariable x))

/-- Where every branch of the program names a label the program declares, as in every well-formed program, a
branch always finds its label (WellFormed; log 9). -/
def Obligations.WellFormedProgramNeverBranchesAstray : Prop :=
  (∀ (s : State) (l : Label), branchesDeclared s.host.prog = true → step s ≠ .fault (.hostUnknownLabel l)) ∧
  (∀ prog : List Stmt, programWf prog = true → branchesDeclared prog = true)

/-- 30_encoding.md R75: the statements of a command line, run by the host while nothing is in flight, issue the
line's command with the operands its row names; the operand registers the row does not name keep their
values. -/
def Obligations.CommandLinesIssueTheirCommand : Prop :=
  ∀ (s : State) (line : Line) (i : Instr) (before after : List Stmt) (rest : List Turn),
    lineCommand? line = some i → s.status.busy = false →
    s.host.prog = before ++ expandLine line ++ after → s.host.pc = before.length →
    s.sched = List.replicate (expandLine line).length .host ++ rest →
    ∃ t, Host.Core.run core (expandLine line).length s = .next t ∧
      t.ops = lineOperands line s.ops ∧ t.latch = ⟨encode i, lineOperands line s.ops, s.ctrl.forceScalar⟩ ∧
      t.cmd = encode i ∧ t.status.busy = true ∧ t.status.done = false ∧ t.status.err = .ok ∧
      t.host.pc = before.length + (expandLine line).length ∧ t.sched = rest ∧
      t.h = s.h ∧ t.cap = s.cap ∧ t.ctrl = s.ctrl ∧ t.errinfo = s.errinfo ∧ DbufSame s t

/-- 30_encoding.md R75: LOAD, run by the host while nothing is in flight, stores byte k of its string in DBUF byte
`o + k`, and changes nothing else but the host's position and the turns taken. A byte whose offset lies past the
window is not the core's (20_memory.md R57; log 18) and goes nowhere in DBUF. -/
def Obligations.LoadStoresItsBytes : Prop :=
  ∀ (s : State) (o : Nat) (hex : Bytes) (before after : List Stmt) (rest : List Turn),
    s.status.busy = false →
    s.host.prog = before ++ expandLine (.load o hex) ++ after → s.host.pc = before.length →
    s.sched = List.replicate hex.length .host ++ rest →
    ∃ t : State, (∃ m, t = { s with
        dbuf := m
        host := { s.host with pc := before.length + hex.length }
        sched := rest }) ∧
      Host.Core.run core hex.length s = .next t ∧
      (∀ k (h : k < hex.length), o + k < 1024 → t.dbufByte (o + k) = hex[k]) ∧
      (∀ a, (a < o ∨ o + hex.length ≤ a ∨ 1024 ≤ a) → t.dbufByte a = s.dbufByte a)

/-- 20_memory.md R57: "Offsets outside 0x000-0x7FF do not belong to the core." A host access past 0x7FF changes
nothing of the core: a write nothing at all, a read only the host's variable (its value is free: log 18). An
access at an offset of the window is the core's access at that offset. -/
def Obligations.OnlyWindowOffsetsReachTheCore : Prop :=
  ∀ (s : State) (size : Size) (off : Nat), s.nextTurn = .host →
    (∀ v, s.hostStmt? = some (.write size off v) →
      (2048 ≤ off → step s = .next s.popTurn.hostNext) ∧
      (∀ o : Offset, o.toNat = off →
        step s = .next ((s.popTurn.hostWrite size o v).noteBusFault size o).hostNext)) ∧
    (∀ x, s.hostStmt? = some (.read size off x) →
      (2048 ≤ off → ∃ w d, step s = .next (({ s.popTurn with draws := d } : State).setVar x w).hostNext) ∧
      (∀ o : Offset, o.toNat = off →
        step s = .next (((s.popTurn.hostRead size o).1.noteBusFault size o).setVar x
          (s.popTurn.hostRead size o).2).hostNext))

/-- 30_encoding.md R75: DUMP, run by the host while nothing is in flight, gives v[k] DBUF byte `o + k`, and changes
nothing else but the host's position and the turns taken. (v[k] is variable v + k, and a byte is widened with
zeros: log 9. An element whose offset lies past the window gets a free value: log 18.) -/
def Obligations.DumpReadsItsBytes : Prop :=
  ∀ (s : State) (o n v : Nat) (before after : List Stmt) (rest : List Turn),
    s.status.busy = false →
    s.host.prog = before ++ expandLine (.dump o n v) ++ after → s.host.pc = before.length →
    s.sched = List.replicate n .host ++ rest →
    ∃ t : State, (∃ vars d, (o + n ≤ 1024 → d = s.draws) ∧ t = { s with
        host := { s.host with vars := vars, pc := before.length + n }
        draws := d
        sched := rest }) ∧
      Host.Core.run core n s = .next t ∧
      (∀ k, k < n → o + k < 1024 → t.host.var? (v + k) = some ((s.dbufByte (o + k)).setWidth 32)) ∧
      (∀ x : Nat, (x < v ∨ v + n ≤ x) → t.host.var? x = s.host.var? x)
end

