-- ==== Sys2Proof/Laws/Bytes.lean ====
section
/-! SUPPORT. Lengths of byte strings, and the byte-order round trips (00_scope.md R11; 20_memory.md R50). -/

namespace Sys2Proof.Machine

@[simp] theorem be32_length (v : Word) : (be32 v).length = 4 := rfl
@[simp] theorem le32_length (v : Word) : (le32 v).length = 4 := rfl
@[simp] theorem be64_length (v : BitVec 64) : (be64 v).length = 8 := rfl
@[simp] theorem zeros_length (n : Nat) : (zeros n).length = n := by simp [zeros]
@[simp] theorem rep_length (b : Byte) (n : Nat) : (rep b n).length = n := by simp [rep]

@[simp] theorem slice_length (s : Bytes) (i j : Nat) : (slice s i j).length = min (j - i) (s.length - i) := by
  simp [slice]

@[simp] theorem xorBytes_length (a b : Bytes) : (xorBytes a b).length = min a.length b.length := by
  simp [xorBytes]

/-- A word is its four bytes put together again. -/
theorem append_extract_bytes (v : Word) :
    (v.extractLsb' 24 8 ++ v.extractLsb' 16 8 ++ v.extractLsb' 8 8 ++ v.extractLsb' 0 8) = v := by
  apply BitVec.eq_of_getLsbD_eq
  intro i hi
  rw [BitVec.getLsbD_append (x := v.extractLsb' 24 8 ++ v.extractLsb' 16 8 ++ v.extractLsb' 8 8)
      (y := v.extractLsb' 0 8),
    BitVec.getLsbD_append (x := v.extractLsb' 24 8 ++ v.extractLsb' 16 8) (y := v.extractLsb' 8 8),
    BitVec.getLsbD_append (x := v.extractLsb' 24 8) (y := v.extractLsb' 16 8)]
  simp only [BitVec.getLsbD_extractLsb']
  interval_cases i <;> simp

/-- Reading the four bytes `le32` stored gives the word back. -/
theorem u32le_le32 (v : Word) : u32le (le32 v) 0 = v := append_extract_bytes v

/-- Reading the four bytes `be32` stored gives the word back. -/
theorem u32be_be32 (v : Word) : u32be (be32 v) 0 = v := append_extract_bytes v

/-- Byte k of `le32 v` is bits [8k+7:8k] of v. -/
theorem le32_getElem (v : Word) (k : Nat) (h : k < (le32 v).length) :
    (le32 v)[k] = v.extractLsb' (8 * k) 8 := by
  simp only [le32_length] at h
  interval_cases k <;> rfl

end Sys2Proof.Machine
end

