-- ==== Sys2Proof/Laws/State.lean ====
section
/-! SUPPORT. One lemma per field per update of State, all true by rfl, so that no later proof unfolds a record
update; and one lemma per Status update. -/

namespace Sys2Proof.Machine

variable (s : State)

/-! ## issue -/

@[simp] theorem issue_ops (w : Word) : (s.issue w).ops = s.ops := rfl
@[simp] theorem issue_h (w : Word) : (s.issue w).h = s.h := rfl
@[simp] theorem issue_cap (w : Word) : (s.issue w).cap = s.cap := rfl
@[simp] theorem issue_ctrl (w : Word) : (s.issue w).ctrl = s.ctrl := rfl
@[simp] theorem issue_status (w : Word) : (s.issue w).status = s.status.issued := rfl
@[simp] theorem issue_cmd (w : Word) : (s.issue w).cmd = w := rfl
@[simp] theorem issue_errinfo (w : Word) : (s.issue w).errinfo = s.errinfo := rfl
@[simp] theorem issue_dbuf (w : Word) : (s.issue w).dbuf = s.dbuf := rfl
@[simp] theorem issue_scratch (w : Word) : (s.issue w).scratch = s.scratch := rfl
@[simp] theorem issue_latch (w : Word) : (s.issue w).latch = ⟨w, s.ops, s.ctrl.forceScalar⟩ := rfl
@[simp] theorem issue_build (w : Word) : (s.issue w).build = s.build := rfl
@[simp] theorem issue_platform (w : Word) : (s.issue w).platform = s.platform := rfl
@[simp] theorem issue_resets (w : Word) : (s.issue w).resets = s.resets := rfl
@[simp] theorem issue_draws (w : Word) : (s.issue w).draws = s.draws := rfl
@[simp] theorem issue_host (w : Word) : (s.issue w).host = s.host := rfl
@[simp] theorem issue_sched (w : Word) : (s.issue w).sched = s.sched := rfl

/-! ## raiseError -/

@[simp] theorem raiseError_ops (c : ErrCode) (f : ErrField) : (s.raiseError c f).ops = s.ops := rfl
@[simp] theorem raiseError_h (c : ErrCode) (f : ErrField) : (s.raiseError c f).h = s.h := rfl
@[simp] theorem raiseError_cap (c : ErrCode) (f : ErrField) : (s.raiseError c f).cap = s.cap := rfl
@[simp] theorem raiseError_ctrl (c : ErrCode) (f : ErrField) : (s.raiseError c f).ctrl = s.ctrl := rfl
@[simp] theorem raiseError_status (c : ErrCode) (f : ErrField) : (s.raiseError c f).status = s.status.completed c false := rfl
@[simp] theorem raiseError_cmd (c : ErrCode) (f : ErrField) : (s.raiseError c f).cmd = s.cmd := rfl
@[simp] theorem raiseError_errinfo (c : ErrCode) (f : ErrField) : (s.raiseError c f).errinfo = ⟨opField s.latch.cmd, f⟩ := rfl
@[simp] theorem raiseError_dbuf (c : ErrCode) (f : ErrField) : (s.raiseError c f).dbuf = s.dbuf := rfl
@[simp] theorem raiseError_scratch (c : ErrCode) (f : ErrField) : (s.raiseError c f).scratch = s.scratch := rfl
@[simp] theorem raiseError_latch (c : ErrCode) (f : ErrField) : (s.raiseError c f).latch = s.latch := rfl
@[simp] theorem raiseError_build (c : ErrCode) (f : ErrField) : (s.raiseError c f).build = s.build := rfl
@[simp] theorem raiseError_platform (c : ErrCode) (f : ErrField) : (s.raiseError c f).platform = s.platform := rfl
@[simp] theorem raiseError_resets (c : ErrCode) (f : ErrField) : (s.raiseError c f).resets = s.resets := rfl
@[simp] theorem raiseError_draws (c : ErrCode) (f : ErrField) : (s.raiseError c f).draws = s.draws := rfl
@[simp] theorem raiseError_host (c : ErrCode) (f : ErrField) : (s.raiseError c f).host = s.host := rfl
@[simp] theorem raiseError_sched (c : ErrCode) (f : ErrField) : (s.raiseError c f).sched = s.sched := rfl

/-! ## completeOk -/

@[simp] theorem completeOk_ops (p : Bool) : (s.completeOk p).ops = s.ops := rfl
@[simp] theorem completeOk_h (p : Bool) : (s.completeOk p).h = s.h := rfl
@[simp] theorem completeOk_cap (p : Bool) : (s.completeOk p).cap = s.cap := rfl
@[simp] theorem completeOk_ctrl (p : Bool) : (s.completeOk p).ctrl = s.ctrl := rfl
@[simp] theorem completeOk_status (p : Bool) : (s.completeOk p).status = s.status.completed .ok p := rfl
@[simp] theorem completeOk_cmd (p : Bool) : (s.completeOk p).cmd = s.cmd := rfl
@[simp] theorem completeOk_errinfo (p : Bool) : (s.completeOk p).errinfo = ⟨opField s.latch.cmd, .none⟩ := rfl
@[simp] theorem completeOk_dbuf (p : Bool) : (s.completeOk p).dbuf = s.dbuf := rfl
@[simp] theorem completeOk_scratch (p : Bool) : (s.completeOk p).scratch = s.scratch := rfl
@[simp] theorem completeOk_latch (p : Bool) : (s.completeOk p).latch = s.latch := rfl
@[simp] theorem completeOk_build (p : Bool) : (s.completeOk p).build = s.build := rfl
@[simp] theorem completeOk_platform (p : Bool) : (s.completeOk p).platform = s.platform := rfl
@[simp] theorem completeOk_resets (p : Bool) : (s.completeOk p).resets = s.resets := rfl
@[simp] theorem completeOk_draws (p : Bool) : (s.completeOk p).draws = s.draws := rfl
@[simp] theorem completeOk_host (p : Bool) : (s.completeOk p).host = s.host := rfl
@[simp] theorem completeOk_sched (p : Bool) : (s.completeOk p).sched = s.sched := rfl

/-! ## detect -/

@[simp] theorem detect_ops : (s.detect).ops = s.ops := rfl
@[simp] theorem detect_h : (s.detect).h = s.h := rfl
@[simp] theorem detect_cap : (s.detect).cap = if s.cap.detected then s.cap else ⟨true, s.build.vecPresent⟩ := rfl
@[simp] theorem detect_ctrl : (s.detect).ctrl = s.ctrl := rfl
@[simp] theorem detect_status : (s.detect).status = s.status := rfl
@[simp] theorem detect_cmd : (s.detect).cmd = s.cmd := rfl
@[simp] theorem detect_errinfo : (s.detect).errinfo = s.errinfo := rfl
@[simp] theorem detect_dbuf : (s.detect).dbuf = s.dbuf := rfl
@[simp] theorem detect_scratch : (s.detect).scratch = s.scratch := rfl
@[simp] theorem detect_latch : (s.detect).latch = s.latch := rfl
@[simp] theorem detect_build : (s.detect).build = s.build := rfl
@[simp] theorem detect_platform : (s.detect).platform = s.platform := rfl
@[simp] theorem detect_resets : (s.detect).resets = s.resets := rfl
@[simp] theorem detect_draws : (s.detect).draws = s.draws := rfl
@[simp] theorem detect_host : (s.detect).host = s.host := rfl
@[simp] theorem detect_sched : (s.detect).sched = s.sched := rfl

/-! ## memWrite -/

@[simp] theorem memWrite_ops (a : Nat) (v : Bytes) : (s.memWrite a v).ops = s.ops := rfl
@[simp] theorem memWrite_h (a : Nat) (v : Bytes) : (s.memWrite a v).h = s.h := rfl
@[simp] theorem memWrite_cap (a : Nat) (v : Bytes) : (s.memWrite a v).cap = s.cap := rfl
@[simp] theorem memWrite_ctrl (a : Nat) (v : Bytes) : (s.memWrite a v).ctrl = s.ctrl := rfl
@[simp] theorem memWrite_status (a : Nat) (v : Bytes) : (s.memWrite a v).status = s.status := rfl
@[simp] theorem memWrite_cmd (a : Nat) (v : Bytes) : (s.memWrite a v).cmd = s.cmd := rfl
@[simp] theorem memWrite_errinfo (a : Nat) (v : Bytes) : (s.memWrite a v).errinfo = s.errinfo := rfl
@[simp] theorem memWrite_dbuf (a : Nat) (v : Bytes) : (s.memWrite a v).dbuf = Memory.writeBytes s.dbuf a v := rfl
@[simp] theorem memWrite_scratch (a : Nat) (v : Bytes) : (s.memWrite a v).scratch = s.scratch := rfl
@[simp] theorem memWrite_latch (a : Nat) (v : Bytes) : (s.memWrite a v).latch = s.latch := rfl
@[simp] theorem memWrite_build (a : Nat) (v : Bytes) : (s.memWrite a v).build = s.build := rfl
@[simp] theorem memWrite_platform (a : Nat) (v : Bytes) : (s.memWrite a v).platform = s.platform := rfl
@[simp] theorem memWrite_resets (a : Nat) (v : Bytes) : (s.memWrite a v).resets = s.resets := rfl
@[simp] theorem memWrite_draws (a : Nat) (v : Bytes) : (s.memWrite a v).draws = s.draws := rfl
@[simp] theorem memWrite_host (a : Nat) (v : Bytes) : (s.memWrite a v).host = s.host := rfl
@[simp] theorem memWrite_sched (a : Nat) (v : Bytes) : (s.memWrite a v).sched = s.sched := rfl

/-! ## popTurn -/

@[simp] theorem popTurn_ops : (s.popTurn).ops = s.ops := rfl
@[simp] theorem popTurn_h : (s.popTurn).h = s.h := rfl
@[simp] theorem popTurn_cap : (s.popTurn).cap = s.cap := rfl
@[simp] theorem popTurn_ctrl : (s.popTurn).ctrl = s.ctrl := rfl
@[simp] theorem popTurn_status : (s.popTurn).status = s.status := rfl
@[simp] theorem popTurn_cmd : (s.popTurn).cmd = s.cmd := rfl
@[simp] theorem popTurn_errinfo : (s.popTurn).errinfo = s.errinfo := rfl
@[simp] theorem popTurn_dbuf : (s.popTurn).dbuf = s.dbuf := rfl
@[simp] theorem popTurn_scratch : (s.popTurn).scratch = s.scratch := rfl
@[simp] theorem popTurn_latch : (s.popTurn).latch = s.latch := rfl
@[simp] theorem popTurn_build : (s.popTurn).build = s.build := rfl
@[simp] theorem popTurn_platform : (s.popTurn).platform = s.platform := rfl
@[simp] theorem popTurn_resets : (s.popTurn).resets = s.resets := rfl
@[simp] theorem popTurn_draws : (s.popTurn).draws = s.draws := rfl
@[simp] theorem popTurn_host : (s.popTurn).host = s.host := rfl
@[simp] theorem popTurn_sched : (s.popTurn).sched = s.sched.tail := rfl

/-! ## busError -/

@[simp] theorem busError_ops : (s.busError).ops = s.ops := rfl
@[simp] theorem busError_h : (s.busError).h = s.h := rfl
@[simp] theorem busError_cap : (s.busError).cap = s.cap := rfl
@[simp] theorem busError_ctrl : (s.busError).ctrl = s.ctrl := rfl
@[simp] theorem busError_status : (s.busError).status = { s.status with busErr := true } := rfl
@[simp] theorem busError_cmd : (s.busError).cmd = s.cmd := rfl
@[simp] theorem busError_errinfo : (s.busError).errinfo = s.errinfo := rfl
@[simp] theorem busError_dbuf : (s.busError).dbuf = s.dbuf := rfl
@[simp] theorem busError_scratch : (s.busError).scratch = s.scratch := rfl
@[simp] theorem busError_latch : (s.busError).latch = s.latch := rfl
@[simp] theorem busError_build : (s.busError).build = s.build := rfl
@[simp] theorem busError_platform : (s.busError).platform = s.platform := rfl
@[simp] theorem busError_resets : (s.busError).resets = s.resets := rfl
@[simp] theorem busError_draws : (s.busError).draws = s.draws := rfl
@[simp] theorem busError_host : (s.busError).host = s.host := rfl
@[simp] theorem busError_sched : (s.busError).sched = s.sched := rfl

/-! ## hostAt -/

@[simp] theorem hostAt_ops (pc : Nat) : (s.hostAt pc).ops = s.ops := rfl
@[simp] theorem hostAt_h (pc : Nat) : (s.hostAt pc).h = s.h := rfl
@[simp] theorem hostAt_cap (pc : Nat) : (s.hostAt pc).cap = s.cap := rfl
@[simp] theorem hostAt_ctrl (pc : Nat) : (s.hostAt pc).ctrl = s.ctrl := rfl
@[simp] theorem hostAt_status (pc : Nat) : (s.hostAt pc).status = s.status := rfl
@[simp] theorem hostAt_cmd (pc : Nat) : (s.hostAt pc).cmd = s.cmd := rfl
@[simp] theorem hostAt_errinfo (pc : Nat) : (s.hostAt pc).errinfo = s.errinfo := rfl
@[simp] theorem hostAt_dbuf (pc : Nat) : (s.hostAt pc).dbuf = s.dbuf := rfl
@[simp] theorem hostAt_scratch (pc : Nat) : (s.hostAt pc).scratch = s.scratch := rfl
@[simp] theorem hostAt_latch (pc : Nat) : (s.hostAt pc).latch = s.latch := rfl
@[simp] theorem hostAt_build (pc : Nat) : (s.hostAt pc).build = s.build := rfl
@[simp] theorem hostAt_platform (pc : Nat) : (s.hostAt pc).platform = s.platform := rfl
@[simp] theorem hostAt_resets (pc : Nat) : (s.hostAt pc).resets = s.resets := rfl
@[simp] theorem hostAt_draws (pc : Nat) : (s.hostAt pc).draws = s.draws := rfl
@[simp] theorem hostAt_host (pc : Nat) : (s.hostAt pc).host = { s.host with pc := pc } := rfl
@[simp] theorem hostAt_sched (pc : Nat) : (s.hostAt pc).sched = s.sched := rfl

/-! ## setVar -/

@[simp] theorem setVar_ops (x : Var) (v : Word) : (s.setVar x v).ops = s.ops := rfl
@[simp] theorem setVar_h (x : Var) (v : Word) : (s.setVar x v).h = s.h := rfl
@[simp] theorem setVar_cap (x : Var) (v : Word) : (s.setVar x v).cap = s.cap := rfl
@[simp] theorem setVar_ctrl (x : Var) (v : Word) : (s.setVar x v).ctrl = s.ctrl := rfl
@[simp] theorem setVar_status (x : Var) (v : Word) : (s.setVar x v).status = s.status := rfl
@[simp] theorem setVar_cmd (x : Var) (v : Word) : (s.setVar x v).cmd = s.cmd := rfl
@[simp] theorem setVar_errinfo (x : Var) (v : Word) : (s.setVar x v).errinfo = s.errinfo := rfl
@[simp] theorem setVar_dbuf (x : Var) (v : Word) : (s.setVar x v).dbuf = s.dbuf := rfl
@[simp] theorem setVar_scratch (x : Var) (v : Word) : (s.setVar x v).scratch = s.scratch := rfl
@[simp] theorem setVar_latch (x : Var) (v : Word) : (s.setVar x v).latch = s.latch := rfl
@[simp] theorem setVar_build (x : Var) (v : Word) : (s.setVar x v).build = s.build := rfl
@[simp] theorem setVar_platform (x : Var) (v : Word) : (s.setVar x v).platform = s.platform := rfl
@[simp] theorem setVar_resets (x : Var) (v : Word) : (s.setVar x v).resets = s.resets := rfl
@[simp] theorem setVar_draws (x : Var) (v : Word) : (s.setVar x v).draws = s.draws := rfl
@[simp] theorem setVar_host (x : Var) (v : Word) : (s.setVar x v).host = { s.host with vars := storeSet s.host.vars x v } := rfl
@[simp] theorem setVar_sched (x : Var) (v : Word) : (s.setVar x v).sched = s.sched := rfl

/-! ## hostNext -/

@[simp] theorem hostNext_ops : (s.hostNext).ops = s.ops := rfl
@[simp] theorem hostNext_h : (s.hostNext).h = s.h := rfl
@[simp] theorem hostNext_cap : (s.hostNext).cap = s.cap := rfl
@[simp] theorem hostNext_ctrl : (s.hostNext).ctrl = s.ctrl := rfl
@[simp] theorem hostNext_status : (s.hostNext).status = s.status := rfl
@[simp] theorem hostNext_cmd : (s.hostNext).cmd = s.cmd := rfl
@[simp] theorem hostNext_errinfo : (s.hostNext).errinfo = s.errinfo := rfl
@[simp] theorem hostNext_dbuf : (s.hostNext).dbuf = s.dbuf := rfl
@[simp] theorem hostNext_scratch : (s.hostNext).scratch = s.scratch := rfl
@[simp] theorem hostNext_latch : (s.hostNext).latch = s.latch := rfl
@[simp] theorem hostNext_build : (s.hostNext).build = s.build := rfl
@[simp] theorem hostNext_platform : (s.hostNext).platform = s.platform := rfl
@[simp] theorem hostNext_resets : (s.hostNext).resets = s.resets := rfl
@[simp] theorem hostNext_draws : (s.hostNext).draws = s.draws := rfl
@[simp] theorem hostNext_host : (s.hostNext).host = { s.host with pc := s.host.pc + 1 } := rfl
@[simp] theorem hostNext_sched : (s.hostNext).sched = s.sched := rfl

/-! ## resetEvent -/

@[simp] theorem resetEvent_ops : (s.resetEvent).ops = OpRegs.zero := rfl
@[simp] theorem resetEvent_h : (s.resetEvent).h = iv := rfl
@[simp] theorem resetEvent_cap : (s.resetEvent).cap = ⟨false, false⟩ := rfl
@[simp] theorem resetEvent_ctrl : (s.resetEvent).ctrl = ⟨false, false⟩ := rfl
@[simp] theorem resetEvent_status : (s.resetEvent).status = ⟨false, false, false, false, false, false, .ok⟩ := rfl
@[simp] theorem resetEvent_cmd : (s.resetEvent).cmd = 0 := rfl
@[simp] theorem resetEvent_errinfo : (s.resetEvent).errinfo = ⟨0, .none⟩ := rfl
@[simp] theorem resetEvent_dbuf : (s.resetEvent).dbuf = [] := rfl
@[simp] theorem resetEvent_scratch : (s.resetEvent).scratch = [] := rfl
@[simp] theorem resetEvent_latch : (s.resetEvent).latch = ⟨0, OpRegs.zero, false⟩ := rfl
@[simp] theorem resetEvent_build : (s.resetEvent).build = s.build := rfl
@[simp] theorem resetEvent_platform : (s.resetEvent).platform = s.platform := rfl
@[simp] theorem resetEvent_resets : (s.resetEvent).resets = s.resets + 1 := rfl
@[simp] theorem resetEvent_draws : (s.resetEvent).draws = s.draws := rfl
@[simp] theorem resetEvent_host : (s.resetEvent).host = s.host := rfl
@[simp] theorem resetEvent_sched : (s.resetEvent).sched = s.sched := rfl

/-! ## Status updates -/

@[simp] theorem status_completed_busy (st : Status) (c : ErrCode) (p : Bool) : (st.completed c p).busy = false := rfl
@[simp] theorem status_completed_done (st : Status) (c : ErrCode) (p : Bool) : (st.completed c p).done = true := rfl
@[simp] theorem status_completed_path (st : Status) (c : ErrCode) (p : Bool) : (st.completed c p).path = p := rfl
@[simp] theorem status_completed_overrun (st : Status) (c : ErrCode) (p : Bool) : (st.completed c p).overrun = st.overrun := rfl
@[simp] theorem status_completed_busyAcc (st : Status) (c : ErrCode) (p : Bool) : (st.completed c p).busyAcc = st.busyAcc := rfl
@[simp] theorem status_completed_busErr (st : Status) (c : ErrCode) (p : Bool) : (st.completed c p).busErr = st.busErr := rfl
@[simp] theorem status_completed_err (st : Status) (c : ErrCode) (p : Bool) : (st.completed c p).err = c := rfl
@[simp] theorem status_issued_busy (st : Status) : (st.issued).busy = true := rfl
@[simp] theorem status_issued_done (st : Status) : (st.issued).done = false := rfl
@[simp] theorem status_issued_path (st : Status) : (st.issued).path = st.path := rfl
@[simp] theorem status_issued_overrun (st : Status) : (st.issued).overrun = st.overrun := rfl
@[simp] theorem status_issued_busyAcc (st : Status) : (st.issued).busyAcc = st.busyAcc := rfl
@[simp] theorem status_issued_busErr (st : Status) : (st.issued).busErr = st.busErr := rfl
@[simp] theorem status_issued_err (st : Status) : (st.issued).err = .ok := rfl
@[simp] theorem status_written_busy (st : Status) (w : Word) : (st.written w).busy = st.busy := rfl
@[simp] theorem status_written_done (st : Status) (w : Word) : (st.written w).done = (st.done && !w.getLsbD 1) := rfl
@[simp] theorem status_written_path (st : Status) (w : Word) : (st.written w).path = st.path := rfl
@[simp] theorem status_written_overrun (st : Status) (w : Word) : (st.written w).overrun = (st.overrun && !w.getLsbD 3) := rfl
@[simp] theorem status_written_busyAcc (st : Status) (w : Word) : (st.written w).busyAcc = (st.busyAcc && !w.getLsbD 4) := rfl
@[simp] theorem status_written_busErr (st : Status) (w : Word) : (st.written w).busErr = (st.busErr && !w.getLsbD 5) := rfl
@[simp] theorem status_written_err (st : Status) (w : Word) : (st.written w).err = if w.getLsbD 1 then .ok else st.err := rfl

end Sys2Proof.Machine
end

