-- ==== Sys2Proof/Laws/Store.lean ====
section
/-! SUPPORT. The laws of the sparse stores: read after write, writes elsewhere, and the canonical form. -/

namespace Sys2Proof.Machine

variable {α : Type}

@[simp] theorem storeGet?_nil (k : Nat) : storeGet? ([] : List (Nat × α)) k = none := rfl

@[simp] theorem storeGet?_set_self (m : List (Nat × α)) (k : Nat) (x : α) :
    storeGet? (storeSet m k x) k = some x := by
  induction m with
  | nil => simp [storeSet, storeGet?]
  | cons e rest ih =>
    obtain ⟨k', x'⟩ := e
    simp only [storeSet]
    split_ifs with h1 h2
    · simp [storeGet?]
    · simp [storeGet?]
    · simp only [storeGet?, ih, if_neg (Ne.symm h2)]

theorem storeGet?_set_ne (m : List (Nat × α)) {k j : Nat} (x : α) (h : k ≠ j) :
    storeGet? (storeSet m k x) j = storeGet? m j := by
  induction m with
  | nil => simp [storeSet, storeGet?, h]
  | cons e rest ih =>
    obtain ⟨k', x'⟩ := e
    simp only [storeSet]
    split_ifs with h1 h2
    · simp [storeGet?, h]
    · subst h2; simp [storeGet?, h]
    · simp only [storeGet?, ih]

/-- An entry after a write is the written one or an old one. -/
theorem mem_storeSet {m : List (Nat × α)} {k : Nat} {x : α} {e : Nat × α} (h : e ∈ storeSet m k x) :
    e = (k, x) ∨ e ∈ m := by
  induction m with
  | nil => simpa [storeSet] using h
  | cons e' rest ih =>
    obtain ⟨k', x'⟩ := e'
    simp only [storeSet] at h
    split_ifs at h with h1 h2
    · simpa using h
    · simp only [List.mem_cons] at h ⊢; tauto
    · simp only [List.mem_cons] at h ⊢
      rcases h with h | h
      · exact .inr (.inl h)
      · exact (ih h).imp id .inr

theorem storeSorted_set {m : List (Nat × α)} (k : Nat) (x : α) (h : storeSorted m = true) :
    storeSorted (storeSet m k x) = true := by
  induction m with
  | nil => simp [storeSet, storeSorted]
  | cons e rest ih =>
    obtain ⟨k', x'⟩ := e
    simp only [storeSorted, Bool.and_eq_true, List.all_eq_true, decide_eq_true_eq] at h
    simp only [storeSet]
    split_ifs with h1 h2
    · simp only [storeSorted, Bool.and_eq_true, List.all_eq_true, decide_eq_true_eq, List.mem_cons]
      refine ⟨?_, h.1, h.2⟩
      rintro e (rfl | he)
      · exact h1
      · exact h1.trans (h.1 e he)
    · subst h2
      simp only [storeSorted, Bool.and_eq_true, List.all_eq_true, decide_eq_true_eq]
      exact h
    · simp only [storeSorted, Bool.and_eq_true, List.all_eq_true, decide_eq_true_eq]
      refine ⟨fun e he => ?_, ih h.2⟩
      rcases mem_storeSet he with rfl | he
      · show k' < k; omega
      · exact h.1 e he

end Sys2Proof.Machine
end

