-- ==== Sys2Proof/Laws/Memory.lean ====
section
/-! SUPPORT. The laws of DBUF and V: a read after a write, a read elsewhere, and the canonical forms
(20_memory.md R51). -/

namespace Sys2Proof.Machine

/-! ## Writing a byte string -/

theorem storeGet?_writeBytes_outside (m : Memory) (a : Nat) (v : Bytes) {x : Nat}
    (h : x < a ∨ a + v.length ≤ x) : storeGet? (Memory.writeBytes m a v) x = storeGet? m x := by
  induction v generalizing m a with
  | nil => rfl
  | cons b rest ih =>
    simp only [List.length_cons] at h
    rw [Memory.writeBytes, ih _ _ (by omega), storeGet?_set_ne _ _ (by omega)]

theorem storeGet?_writeBytes_inside (m : Memory) (a : Nat) (v : Bytes) {k : Nat} (h : k < v.length) :
    storeGet? (Memory.writeBytes m a v) (a + k) = some v[k] := by
  induction v generalizing m a k with
  | nil => simp at h
  | cons b rest ih =>
    rw [Memory.writeBytes]
    cases k with
    | zero => rw [storeGet?_writeBytes_outside _ _ _ (by omega)]; simp
    | succ k =>
      have := ih (storeSet m a b) (a + 1) (k := k) (by simpa using h)
      rw [show a + (k + 1) = a + 1 + k by omega, this]; simp

theorem memory_wf_nil : Memory.wf [] = true := rfl

theorem memory_wf_iff (m : Memory) :
    Memory.wf m = true ↔ storeSorted m = true ∧ ∀ e ∈ m, e.1 < 1024 := by
  simp only [Memory.wf, Bool.and_eq_true, List.all_eq_true, decide_eq_true_eq]
  exact Iff.rfl

theorem memory_wf_set {m : Memory} {a : Nat} (b : Byte) (h : Memory.wf m = true) (ha : a < 1024) :
    Memory.wf (storeSet m a b) = true := by
  rw [memory_wf_iff] at h ⊢
  refine ⟨storeSorted_set _ _ h.1, fun e he => ?_⟩
  rcases mem_storeSet he with rfl | he
  · exact ha
  · exact h.2 e he

/-- Every write inside DBUF keeps the canonical form. -/
theorem memory_wf_writeBytes {m : Memory} {a : Nat} {v : Bytes} (h : Memory.wf m = true)
    (ha : a + v.length ≤ 1024) : Memory.wf (Memory.writeBytes m a v) = true := by
  induction v generalizing m a with
  | nil => exact h
  | cons b rest ih =>
    simp only [List.length_cons] at ha
    exact ih (memory_wf_set b h (by omega)) (by omega)

/-! ## Reading -/

/-- Two states whose DBUF and reset count agree read the same bytes. -/
theorem dbufByte_congr {s t : State} (hd : t.dbuf = s.dbuf) (hr : t.resets = s.resets) (a : Nat) :
    t.dbufByte a = s.dbufByte a := by
  simp [State.dbufByte, hd, hr]

theorem memRead_congr {s t : State} (hd : t.dbuf = s.dbuf) (hr : t.resets = s.resets) (a n : Nat) :
    t.memRead a n = s.memRead a n := by
  simp [State.memRead, dbufByte_congr hd hr]

@[simp] theorem memRead_length (s : State) (a n : Nat) : (s.memRead a n).length = n := by
  simp [State.memRead]

@[simp] theorem memRead_getElem (s : State) (a n k : Nat) (h : k < (s.memRead a n).length) :
    (s.memRead a n)[k] = s.dbufByte (a + k) := by
  simp [State.memRead]

/-- A byte outside a write reads as before. -/
theorem dbufByte_memWrite_outside (s : State) (a : Nat) (v : Bytes) {x : Nat}
    (h : x < a ∨ a + v.length ≤ x) : (s.memWrite a v).dbufByte x = s.dbufByte x := by
  simp [State.dbufByte, storeGet?_writeBytes_outside _ _ _ h]

/-- Byte k of a write reads back as byte k of the string. -/
theorem dbufByte_memWrite_inside (s : State) (a : Nat) (v : Bytes) {k : Nat} (h : k < v.length) :
    (s.memWrite a v).dbufByte (a + k) = v[k] := by
  simp [State.dbufByte, storeGet?_writeBytes_inside _ _ _ h]

/-- A read of what was written gives it back. -/
theorem memRead_memWrite_same (s : State) (a : Nat) (v : Bytes) :
    (s.memWrite a v).memRead a v.length = v := by
  refine List.ext_getElem (by simp) fun k h1 h2 => ?_
  rw [memRead_getElem, dbufByte_memWrite_inside _ _ _ h2]

/-- A read that does not meet a write gives what it gave before. -/
theorem memRead_memWrite_disjoint (s : State) {a n b : Nat} {v : Bytes}
    (h : a + n ≤ b ∨ b + v.length ≤ a) : (s.memWrite b v).memRead a n = s.memRead a n := by
  refine List.ext_getElem (by simp) fun k h1 h2 => ?_
  rw [memRead_getElem, memRead_getElem]
  refine dbufByte_memWrite_outside _ _ _ ?_
  simp at h1
  omega

/-! ## V -/

theorem scratch_wf_nil : Scratch.wf [] = true := rfl

theorem scratch_wf_iff (v : Scratch) :
    Scratch.wf v = true ↔ storeSorted v = true ∧ ∀ e ∈ v, e.1 < 1024 ∧ e.2.length = 128 := by
  simp only [Scratch.wf, Bool.and_eq_true, List.all_eq_true, decide_eq_true_eq]
  unfold Config.romixN
  exact Iff.rfl

theorem scratch_wf_vWrite {v : Scratch} {i : Nat} {b : Bytes} (h : Scratch.wf v = true) (hi : i < 1024)
    (hb : b.length = 128) : Scratch.wf (vWrite v i b) = true := by
  rw [scratch_wf_iff] at h ⊢
  refine ⟨storeSorted_set _ _ h.1, fun e he => ?_⟩
  rcases mem_storeSet he with rfl | he
  · exact ⟨hi, hb⟩
  · exact h.2 e he

@[simp] theorem vRead_vWrite_self (epoch : Nat) (v : Scratch) (i : Nat) (b : Bytes) :
    vRead epoch (vWrite v i b) i = b := by
  simp [vRead, vWrite]

theorem vRead_vWrite_ne (epoch : Nat) (v : Scratch) {i j : Nat} (b : Bytes) (h : i ≠ j) :
    vRead epoch (vWrite v i b) j = vRead epoch v j := by
  simp [vRead, vWrite, storeGet?_set_ne _ _ h]

end Sys2Proof.Machine
end

