-- ==== Sys2Proof/Laws/Crypto.lean ====
section
/-! SUPPORT. Output lengths of the command functions (40_sha256.md R81, 41_hmac_pbkdf2.md R85, R87,
42_salsa_blockmix.md R93, R96, 43_romix.md R99, 44_scrypt_dispatch.md R105), and what the fill phase leaves in V. -/

namespace Sys2Proof.Machine

theorem flatMap_length_const {α : Type} (f : α → Bytes) (n : Nat) (h : ∀ x, (f x).length = n) (l : List α) :
    (l.flatMap f).length = n * l.length := by
  induction l with
  | nil => simp
  | cons x rest ih => simp [h, ih, Nat.mul_succ]; omega

@[simp] theorem digestBytes_length (h : Vector Word 8) : (digestBytes h).length = 32 := by
  simp [digestBytes, flatMap_length_const be32 4 be32_length]

@[simp] theorem sha256_length (m : Bytes) : (sha256 m).length = 32 := by
  unfold sha256
  exact digestBytes_length _

@[simp] theorem hmac_length (key msg : Bytes) : (hmac key msg).length = 32 := by
  unfold hmac
  exact sha256_length _

theorem pbkdf2Iterate_length (p : Bytes) (n : Nat) (u t : Bytes) (ht : t.length = 32) :
    (pbkdf2Iterate p n u t).length = 32 := by
  induction n generalizing u t with
  | zero => exact ht
  | succ n ih => exact ih _ _ (by simp [ht])

@[simp] theorem pbkdf2Block_length (p salt : Bytes) (c i : Nat) : (pbkdf2Block p salt c i).length = 32 :=
  pbkdf2Iterate_length _ _ _ _ (hmac_length _ _)

@[simp] theorem pbkdf2_length (p salt : Bytes) (c dkLen : Nat) : (pbkdf2 p salt c dkLen).length = dkLen := by
  simp only [pbkdf2, List.length_take, flatMap_length_const _ 32 (pbkdf2Block_length p salt c),
    List.length_range']
  omega

@[simp] theorem salsaStore_length (x : Vector Word 16) : (salsaStore x).length = 64 := by
  simp [salsaStore, flatMap_length_const le32 4 le32_length]

@[simp] theorem salsa20_8_length (sb : Bytes) : (salsa20_8 sb).length = 64 := by
  unfold salsa20_8
  exact salsaStore_length _

@[simp] theorem blockMix_length (b : Bytes) : (blockMix b).length = 128 := by simp [blockMix]

@[simp] theorem romixN_eq : Config.romixN = 1024 := by unfold Config.romixN; rfl

theorem integerify_eq (x : Bytes) : integerify x = (u32le x 64).toNat % 1024 := by
  rw [integerify, romixN_eq]

theorem integerify_lt (x : Bytes) : integerify x < 1024 := by rw [integerify_eq]; omega

/-! ## ROMix -/

/-- Anything true of the block that enters and kept by BlockMix is true of the block after `n` fill steps. -/
theorem foldl_fillStep_snd (P : Bytes → Prop) (hP : ∀ x, P x → P (blockMix x)) (l : List Nat)
    (vx : Scratch × Bytes) (h : P vx.2) : P (l.foldl fillStep vx).2 := by
  induction l generalizing vx with
  | nil => exact h
  | cons i rest ih => exact ih _ (hP _ h)

theorem foldl_fillStep_wf (l : List Nat) (hl : ∀ i ∈ l, i < 1024) (vx : Scratch × Bytes)
    (hv : Scratch.wf vx.1 = true) (hx : vx.2.length = 128) : Scratch.wf (l.foldl fillStep vx).1 = true := by
  induction l generalizing vx with
  | nil => exact hv
  | cons i rest ih =>
    refine ih (fun j hj => hl j (List.mem_cons_of_mem _ hj)) _ ?_ (by simp [fillStep])
    exact scratch_wf_vWrite hv (hl i (List.mem_cons_self ..)) hx

/-- The table ROMix leaves in V, and its output (43_romix.md R99). -/
theorem romix_fst (epoch : Nat) (v : Scratch) (b : Bytes) : (romix epoch v b).1 = (romixFill v b).1 := by
  simp only [romix]

theorem romix_snd (epoch : Nat) (v : Scratch) (b : Bytes) :
    (romix epoch v b).2 = romixMix epoch (romixFill v b).1 (romixFill v b).2 := by simp only [romix]

/-- ROMix keeps the canonical form of V. -/
theorem romix_wf (epoch : Nat) {v : Scratch} {b : Bytes} (hv : Scratch.wf v = true) (hb : b.length = 128) :
    Scratch.wf (romix epoch v b).1 = true := by
  rw [romix_fst, romixFill]
  exact foldl_fillStep_wf _ (fun i hi => by simpa using hi) (v, b) hv hb

theorem romixMix_length (epoch : Nat) (v : Scratch) (x : Bytes) : (romixMix epoch v x).length = 128 := by
  have h : ∀ n (x : Bytes), ((List.range (n + 1)).foldl (fun x _ => mixStep epoch v x) x).length = 128 := by
    intro n x
    rw [List.range_succ, List.foldl_append]
    exact blockMix_length _
  rw [romixMix, romixN_eq]
  exact h 1023 x

@[simp] theorem romix_length (epoch : Nat) (v : Scratch) (b : Bytes) : (romix epoch v b).2.length = 128 := by
  rw [romix_snd, romixMix_length]

/-- The scrypt driver in terms of its three passes (44_scrypt_dispatch.md R105). -/
theorem scrypt_fst (epoch : Nat) (v : Scratch) (inp : Bytes) :
    (scrypt epoch v inp).1 = (romix epoch v (pbkdf2 inp inp 1 128)).1 := by simp only [scrypt]

theorem scrypt_snd (epoch : Nat) (v : Scratch) (inp : Bytes) :
    (scrypt epoch v inp).2 = pbkdf2 inp (romix epoch v (pbkdf2 inp inp 1 128)).2 1 32 := by simp only [scrypt]

theorem scrypt_wf (epoch : Nat) {v : Scratch} (inp : Bytes) (hv : Scratch.wf v = true) :
    Scratch.wf (scrypt epoch v inp).1 = true := by
  rw [scrypt_fst]
  exact romix_wf epoch hv (pbkdf2_length _ _ _ _)

@[simp] theorem scrypt_length (epoch : Nat) (v : Scratch) (inp : Bytes) : (scrypt epoch v inp).2.length = 32 := by
  rw [scrypt_snd, pbkdf2_length]

end Sys2Proof.Machine
end

