-- ==== Sys2Proof/Laws/Exec.lean ====
section
/-! SUPPORT. What the completion of a command can do: the spec lemmas of the checks and of `finish`, and one
inversion lemma of `exec` from which every claim over all commands follows. -/

namespace Sys2Proof.Machine

/-! ## Checks -/

theorem inRange_eq_true (off n : Nat) : inRange off n = true ↔ off + n ≤ 1024 := decide_eq_true_iff

theorem inRange_eq_false (off n : Nat) : inRange off n = false ↔ 1024 < off + n := by
  rw [← Bool.not_eq_true, inRange_eq_true, Nat.not_le]

@[simp] theorem checkSrc0_pass (s : State) (n : Nat) : (s.checkSrc0 n).pass = true ↔ s.src0 + n ≤ 1024 :=
  inRange_eq_true _ _
@[simp] theorem checkSrc1_pass (s : State) (n : Nat) : (s.checkSrc1 n).pass = true ↔ s.src1 + n ≤ 1024 :=
  inRange_eq_true _ _
@[simp] theorem checkDst_pass (s : State) (n : Nat) : (s.checkDst n).pass = true ↔ s.dst + n ≤ 1024 :=
  inRange_eq_true _ _
@[simp] theorem checkInLen_pass (s : State) : s.checkInLen.pass = true ↔ s.len0 = 80 := beq_iff_eq
@[simp] theorem checkOutLen_pass (s : State) : s.checkOutLen.pass = true ↔ s.len2 = 32 := beq_iff_eq
@[simp] theorem checkDkLen_pass (s : State) : s.checkDkLen.pass = true ↔ s.len2 ≠ 0 := bne_iff_ne
@[simp] theorem checkIter_pass (s : State) : s.checkIter.pass = true ↔ s.iter ≠ 0 := bne_iff_ne
@[simp] theorem checkScratch_pass (s : State) :
    s.checkScratch.pass = true ↔ 131072 ≤ s.build.scratchAvail := decide_eq_true_iff

@[simp] theorem firstFailing_nil : firstFailing [] = none := rfl

theorem firstFailing_cons_pass {c : Check} (cs : List Check) (h : c.pass = true) :
    firstFailing (c :: cs) = firstFailing cs := by simp [firstFailing, h]

theorem firstFailing_cons_fail {c : Check} (cs : List Check) (h : ¬ c.pass = true) :
    firstFailing (c :: cs) = some c := by simp [firstFailing, h]

theorem firstFailing_eq_none_iff {cs : List Check} :
    firstFailing cs = none ↔ ∀ c ∈ cs, c.pass = true := by simp [firstFailing]

theorem mem_of_firstFailing {cs : List Check} {c : Check} (h : firstFailing cs = some c) : c ∈ cs :=
  List.mem_of_find?_eq_some h

/-! ## finish -/

theorem finish_of_pass {s : State} {cs : List Check} (h : ∀ c ∈ cs, c.pass = true) (commit : State)
    (path : Bool) : s.finish cs commit path = .next (commit.completeOk path) := by
  simp [State.finish, firstFailing_eq_none_iff.2 h]

theorem finish_of_fail {s : State} {cs : List Check} {c : Check} (h : firstFailing cs = some c)
    (commit : State) (path : Bool) : s.finish cs commit path = .next (s.raiseError c.code c.field) := by
  simp [State.finish, h]

/-- Every completion of a legal command ends in one of two ways (10_state.md R39). -/
theorem finish_cases (s : State) (cs : List Check) (commit : State) (path : Bool) :
    (∃ c ∈ cs, firstFailing cs = some c ∧
        s.finish cs commit path = .next (s.raiseError c.code c.field)) ∨
      ((∀ c ∈ cs, c.pass = true) ∧ s.finish cs commit path = .next (commit.completeOk path)) := by
  cases h : firstFailing cs with
  | some c => exact .inl ⟨c, mem_of_firstFailing h, rfl, finish_of_fail h _ _⟩
  | none =>
    have h' := firstFailing_eq_none_iff.1 h
    exact .inr ⟨h', finish_of_pass h' _ _⟩

/-- Two completions with the same checks differ as their commit blocks and errors differ. -/
theorem finish_congr {s s' : State} (cs : List Check) (c c' : State) (p p' : Bool) (f : State → State)
    (herr : ∀ code field, s'.raiseError code field = f (s.raiseError code field))
    (hok : c'.completeOk p' = f (c.completeOk p)) :
    ∃ t, s.finish cs c p = .next t ∧ s'.finish cs c' p' = .next (f t) := by
  cases hf : firstFailing cs with
  | some x => exact ⟨_, finish_of_fail hf _ _, by rw [finish_of_fail hf, herr]⟩
  | none =>
    have hp := firstFailing_eq_none_iff.1 hf
    exact ⟨_, finish_of_pass hp _ _, by rw [finish_of_pass hp, hok]⟩

/-! ## The meanings as equations

One per command. Where a goal mentions `romix` or `scrypt`, rewrite with these and `generalize` the result
before any `rfl`: the kernel may otherwise try to run the two loops of 1024 steps. -/

theorem exec_nop (s : State) : exec .nop s =
    s.finish [] s false := rfl

theorem exec_sha256Init (s : State) : exec .sha256Init s =
    s.finish [] { s with h := iv } false := rfl

theorem exec_sha256Compress (s : State) : exec .sha256Compress s =
    s.finish [s.checkSrc0 Config.shaBlock] { s with h := compress s.h (s.source Config.shaBlock) } false := rfl

theorem exec_sha256Digest (s : State) : exec .sha256Digest s =
    s.finish [s.checkSrc0 s.len0, s.checkDst Config.hlen] (s.memWrite s.dst (sha256 s.operand0)) false := rfl

theorem exec_hmacSha256 (s : State) : exec .hmacSha256 s =
    s.finish [s.checkSrc0 s.len0, s.checkSrc1 s.len1, s.checkDst Config.hlen]
      (s.memWrite s.dst (hmac s.operand0 s.operand1)) false := rfl

theorem exec_pbkdf2Sha256 (s : State) : exec .pbkdf2Sha256 s =
    s.finish [s.checkDkLen, s.checkIter, s.checkSrc0 s.len0, s.checkSrc1 s.len1, s.checkDst s.len2]
      (s.memWrite s.dst (pbkdf2 s.operand0 s.operand1 s.iter s.len2)) false := rfl

theorem exec_salsa208 (s : State) : exec .salsa208 s =
    s.finish [s.checkSrc0 Config.sub, s.checkDst Config.sub]
      (s.detect.memWrite s.dst (salsa20_8 (s.source Config.sub))) s.selectPath := rfl

theorem exec_blockmix (s : State) : exec .blockmix s =
    s.finish [s.checkSrc0 Config.blk, s.checkDst Config.blk]
      (s.detect.memWrite s.dst (blockMix (s.source Config.blk))) s.selectPath := rfl

theorem exec_romix (s : State) : exec .romix s =
    s.finish [s.checkSrc0 Config.blk, s.checkDst Config.blk, s.checkScratch]
      { s.detect.memWrite s.dst (romix s.resets s.scratch (s.source Config.blk)).2 with
        scratch := (romix s.resets s.scratch (s.source Config.blk)).1 } s.selectPath := rfl

theorem exec_scrypt (s : State) : exec .scrypt s =
    s.finish [s.checkInLen, s.checkOutLen, s.checkSrc0 Config.inLen, s.checkDst Config.outLen, s.checkScratch]
      { s.detect.memWrite s.dst (scrypt s.resets s.scratch (s.source Config.inLen)).2 with
        scratch := (scrypt s.resets s.scratch (s.source Config.inLen)).1 } s.selectPath := rfl

theorem exec_detect (s : State) : exec .detect s =
    s.finish [] s.detect false := rfl

/-- A source region is what its bytes, its reset count and the latched offset say. -/
theorem source_congr {s t : State} (hd : t.dbuf = s.dbuf) (hr : t.resets = s.resets)
    (hl : t.latch.ops = s.latch.ops) (n : Nat) : t.source n = s.source n := by
  simp only [State.source, State.src0, hl]
  exact memRead_congr hd hr _ _

/-! ## exec -/

/-- The state an error-free completion starts from: the commit block of a command applied to `s`. -/
def committed (s : State) (h : Vector Word 8) (cap : Cap) (a : Nat) (v : Bytes) (w : Scratch) : State :=
  { s with h := h, cap := cap, dbuf := Memory.writeBytes s.dbuf a v, scratch := w }

/-- What a commit block may do to the state it starts from, whatever the command. -/
structure Commits (i : Instr) (s : State) (h : Vector Word 8) (cap : Cap) (a : Nat) (v : Bytes)
    (w : Scratch) (path : Bool) : Prop where
  /-- Only SHA256_INIT and SHA256_COMPRESS write H (10_state.md R30). -/
  keepsH : i = .sha256Init ∨ i = .sha256Compress ∨ h = s.h
  /-- CAP is kept, or left as Detect() leaves it (10_state.md R40). -/
  keepsCap : cap = s.cap ∨ cap = s.detect.cap
  /-- A datapath is reported only by a command that detects (44_scrypt_dispatch.md R109). -/
  pathDetects : path = false ∨ (cap = s.detect.cap ∧ path = s.selectPath)
  /-- DBUF is written inside its 1024 bytes (20_memory.md R51). -/
  inDbuf : a + v.length ≤ 1024
  /-- V keeps its canonical form. -/
  keepsScratch : Scratch.wf s.scratch = true → Scratch.wf w = true

/-- `finish` either raises one of its checks' errors or completes with its commit block. -/
theorem finish_inversion {i : Instr} {s : State} {cs : List Check} {h : Vector Word 8} {cap : Cap} {a : Nat}
    {v : Bytes} {w : Scratch} {path : Bool}
    (hc : ∀ c ∈ cs, c.code ≠ .ok ∧ c.field ≠ .none)
    (hok : (∀ c ∈ cs, c.pass = true) → Commits i s h cap a v w path) :
    (∃ c f, c ≠ .ok ∧ f ≠ .none ∧
        s.finish cs (committed s h cap a v w) path = .next (s.raiseError c f)) ∨
      (∃ h' cap' a' v' w' p', Commits i s h' cap' a' v' w' p' ∧
        s.finish cs (committed s h cap a v w) path =
          .next ((committed s h' cap' a' v' w').completeOk p')) := by
  rcases finish_cases s cs (committed s h cap a v w) path with ⟨c, hmem, -, e⟩ | ⟨hp, e⟩
  · exact .inl ⟨_, _, (hc c hmem).1, (hc c hmem).2, e⟩
  · exact .inr ⟨_, _, _, _, _, _, hok hp, e⟩

theorem dst_in_range {s : State} {cs : List Check} {v : Bytes} (n : Nat) (hp : ∀ c ∈ cs, c.pass = true)
    (h : s.checkDst n ∈ cs) (hv : v.length = n) : s.dst + v.length ≤ 1024 :=
  hv ▸ (checkDst_pass s n).1 (hp _ h)

/-- Every command either raises an error or completes with a commit block of the kind `Commits` says
(10_state.md R39). Every claim about all commands follows from this. -/
theorem exec_cases (i : Instr) (s : State) :
    (∃ c f, c ≠ .ok ∧ f ≠ .none ∧ exec i s = .next (s.raiseError c f)) ∨
      (∃ h cap a v w p, Commits i s h cap a v w p ∧
        exec i s = .next ((committed s h cap a v w).completeOk p)) := by
  cases i with
  | nop =>
    exact finish_inversion (i := .nop) (s := s) (cs := []) (h := s.h) (cap := s.cap) (a := 0) (v := []) (w := s.scratch)
      (by simp) fun _ => ⟨by simp, .inl rfl, .inl rfl, by simp, id⟩
  | sha256Init =>
    exact finish_inversion (i := .sha256Init) (s := s) (cs := []) (h := iv) (cap := s.cap) (a := 0) (v := []) (w := s.scratch)
      (by simp) fun _ => ⟨by simp, .inl rfl, .inl rfl, by simp, id⟩
  | sha256Compress =>
    exact finish_inversion (i := .sha256Compress) (s := s) (cs := [s.checkSrc0 Config.shaBlock])
      (h := compress s.h (s.source Config.shaBlock)) (cap := s.cap) (a := 0) (v := []) (w := s.scratch)
      (by simp [State.checkSrc0]) fun _ => ⟨by simp, .inl rfl, .inl rfl, by simp, id⟩
  | sha256Digest =>
    exact finish_inversion (i := .sha256Digest) (s := s) (cs := [s.checkSrc0 s.len0, s.checkDst Config.hlen])
      (h := s.h) (cap := s.cap) (a := s.dst) (v := sha256 s.operand0) (w := s.scratch)
      (by simp [State.checkSrc0, State.checkDst])
      fun hp => ⟨by simp, .inl rfl, .inl rfl, dst_in_range Config.hlen hp (by simp) (by simp [Config.hlen]), id⟩
  | hmacSha256 =>
    exact finish_inversion (i := .hmacSha256) (s := s)
      (cs := [s.checkSrc0 s.len0, s.checkSrc1 s.len1, s.checkDst Config.hlen])
      (h := s.h) (cap := s.cap) (a := s.dst) (v := hmac s.operand0 s.operand1) (w := s.scratch)
      (by simp [State.checkSrc0, State.checkSrc1, State.checkDst])
      fun hp => ⟨by simp, .inl rfl, .inl rfl, dst_in_range Config.hlen hp (by simp) (by simp [Config.hlen]), id⟩
  | pbkdf2Sha256 =>
    exact finish_inversion (i := .pbkdf2Sha256) (s := s)
      (cs := [s.checkDkLen, s.checkIter, s.checkSrc0 s.len0, s.checkSrc1 s.len1, s.checkDst s.len2])
      (h := s.h) (cap := s.cap) (a := s.dst) (v := pbkdf2 s.operand0 s.operand1 s.iter s.len2) (w := s.scratch)
      (by simp [State.checkSrc0, State.checkSrc1, State.checkDst, State.checkDkLen, State.checkIter])
      fun hp => ⟨by simp, .inl rfl, .inl rfl, dst_in_range s.len2 hp (by simp) (by simp), id⟩
  | salsa208 =>
    exact finish_inversion (i := .salsa208) (s := s) (cs := [s.checkSrc0 Config.sub, s.checkDst Config.sub])
      (h := s.h) (cap := s.detect.cap) (a := s.dst) (v := salsa20_8 (s.source Config.sub)) (w := s.scratch)
      (by simp [State.checkSrc0, State.checkDst])
      fun hp => ⟨by simp, .inr rfl, .inr ⟨rfl, rfl⟩, dst_in_range Config.sub hp (by simp) (by simp [Config.sub]), id⟩
  | blockmix =>
    exact finish_inversion (i := .blockmix) (s := s) (cs := [s.checkSrc0 Config.blk, s.checkDst Config.blk])
      (h := s.h) (cap := s.detect.cap) (a := s.dst) (v := blockMix (s.source Config.blk)) (w := s.scratch)
      (by simp [State.checkSrc0, State.checkDst])
      fun hp => ⟨by simp, .inr rfl, .inr ⟨rfl, rfl⟩, dst_in_range Config.blk hp (by simp) (by simp [Config.blk]), id⟩
  | romix =>
    exact finish_inversion (i := .romix) (s := s)
      (cs := [s.checkSrc0 Config.blk, s.checkDst Config.blk, s.checkScratch])
      (h := s.h) (cap := s.detect.cap) (a := s.dst) (v := (romix s.resets s.scratch (s.source Config.blk)).2)
      (w := (romix s.resets s.scratch (s.source Config.blk)).1)
      (by simp [State.checkSrc0, State.checkDst, State.checkScratch])
      fun hp => ⟨by simp, .inr rfl, .inr ⟨rfl, rfl⟩, dst_in_range Config.blk hp (by simp) (by simp [Config.blk]),
        fun hv => romix_wf _ hv (memRead_length ..)⟩
  | scrypt =>
    exact finish_inversion (i := .scrypt) (s := s)
      (cs := [s.checkInLen, s.checkOutLen, s.checkSrc0 Config.inLen, s.checkDst Config.outLen, s.checkScratch])
      (h := s.h) (cap := s.detect.cap) (a := s.dst) (v := (scrypt s.resets s.scratch (s.source Config.inLen)).2)
      (w := (scrypt s.resets s.scratch (s.source Config.inLen)).1)
      (by simp [State.checkSrc0, State.checkDst, State.checkScratch, State.checkInLen, State.checkOutLen])
      fun hp => ⟨by simp, .inr rfl, .inr ⟨rfl, rfl⟩, dst_in_range Config.outLen hp (by simp) (by simp [Config.outLen]),
        fun hv => scrypt_wf _ _ hv⟩
  | detect =>
    exact finish_inversion (i := .detect) (s := s) (cs := []) (h := s.h) (cap := s.detect.cap) (a := 0) (v := [])
      (w := s.scratch) (by simp) fun _ => ⟨by simp, .inr rfl, .inl rfl, by simp, id⟩

end Sys2Proof.Machine
end

