-- ==== Sys2Proof/Laws/PerInstr.lean ====
section
/-! SUPPORT. Statements about every command as syntax, one lemma per constructor. -/

namespace Sys2Proof.Laws

/-- A command is well formed, and its word has RSV = 0 and an OP of the table of 30_encoding.md R69. -/
def EncodesLegally.Statement (i : Instr) : Prop :=
  i.wf = true ∧ rsvField (encode i) = 0 ∧ (opField (encode i)).toNat ≤ 0x0A

theorem EncodesLegally.nop : EncodesLegally.Statement .nop := by unfold EncodesLegally.Statement; decide
theorem EncodesLegally.sha256Init : EncodesLegally.Statement .sha256Init := by unfold EncodesLegally.Statement; decide
theorem EncodesLegally.sha256Compress : EncodesLegally.Statement .sha256Compress := by unfold EncodesLegally.Statement; decide
theorem EncodesLegally.sha256Digest : EncodesLegally.Statement .sha256Digest := by unfold EncodesLegally.Statement; decide
theorem EncodesLegally.hmacSha256 : EncodesLegally.Statement .hmacSha256 := by unfold EncodesLegally.Statement; decide
theorem EncodesLegally.pbkdf2Sha256 : EncodesLegally.Statement .pbkdf2Sha256 := by unfold EncodesLegally.Statement; decide
theorem EncodesLegally.salsa208 : EncodesLegally.Statement .salsa208 := by unfold EncodesLegally.Statement; decide
theorem EncodesLegally.blockmix : EncodesLegally.Statement .blockmix := by unfold EncodesLegally.Statement; decide
theorem EncodesLegally.romix : EncodesLegally.Statement .romix := by unfold EncodesLegally.Statement; decide
theorem EncodesLegally.scrypt : EncodesLegally.Statement .scrypt := by unfold EncodesLegally.Statement; decide
theorem EncodesLegally.detect : EncodesLegally.Statement .detect := by unfold EncodesLegally.Statement; decide

end Sys2Proof.Laws
end

