-- ==== Sys2Proof/Laws/Step.lean ====
section
/-! SUPPORT. What a host access and a step can do: inversion lemmas, said once. -/

namespace Sys2Proof.Machine

/-! ## Host accesses -/

theorem isCsr_eq_false (off : Offset) : isCsr off = false ↔ 1024 ≤ off.toNat := by
  rw [isCsr, decide_eq_false_iff_not, dbufBase, Nat.not_lt]

theorem isCsr_eq_true (off : Offset) : isCsr off = true ↔ off.toNat < 1024 := by
  rw [isCsr, decide_eq_true_iff, dbufBase]

theorem legalAccess_b32 (off : Offset) : legalAccess .b32 off = true ↔ off.toNat % 4 = 0 := by
  simp [legalAccess]

theorem legalAccess_b8 (off : Offset) : legalAccess .b8 off = true ↔ 1024 ≤ off.toNat := by
  simp [legalAccess, isCsr_eq_false]

/-- A host write of DBUF: dropped with BUSY_ACC, or stored (20_memory.md R61). -/
theorem hostWriteDbuf_cases (s : State) (a : Nat) (v : Bytes) :
    (s.status.busy = true ∧ s.hostWriteDbuf a v = { s with status := { s.status with busyAcc := true } }) ∨
      (s.status.busy = false ∧ s.hostWriteDbuf a v = s.memWrite a v) := by
  cases h : s.status.busy <;> simp [State.hostWriteDbuf, h]

/-- What a host write can do (20_memory.md R49, R54, R56). -/
theorem hostWrite_cases (s : State) (size : Size) (off : Offset) (v : Word) :
    (legalAccess size off = false ∧ s.hostWrite size off v = s.busError) ∨
      (size = .b32 ∧ off.toNat % 4 = 0 ∧ isCsr off = true ∧ s.hostWrite size off v = s.writeCsr off v) ∨
      (s.status.busy = true ∧
        s.hostWrite size off v = { s with status := { s.status with busyAcc := true } }) ∨
      (s.status.busy = false ∧ ∃ a bs, a + bs.length ≤ 1024 ∧ s.hostWrite size off v = s.memWrite a bs) := by
  have hlt := off.isLt
  cases hl : legalAccess size off with
  | false => exact .inl ⟨rfl, by simp [State.hostWrite, hl]⟩
  | true =>
    cases size with
    | other b => simp [legalAccess] at hl
    | b32 =>
      have h4 := (legalAccess_b32 off).1 hl
      cases hc : isCsr off with
      | true => exact .inr (.inl ⟨rfl, h4, rfl, by simp [State.hostWrite, hl, hc]⟩)
      | false =>
        have hr := (isCsr_eq_false off).1 hc
        have e : s.hostWrite .b32 off v = s.hostWriteDbuf (dbufIndex off) (le32 v) := by
          simp [State.hostWrite, hl, hc]
        rcases hostWriteDbuf_cases s (dbufIndex off) (le32 v) with ⟨hb, e'⟩ | ⟨hb, e'⟩
        · exact .inr (.inr (.inl ⟨hb, e.trans e'⟩))
        · refine .inr (.inr (.inr ⟨hb, _, _, ?_, e.trans e'⟩))
          simp [dbufIndex, dbufBase]; omega
    | b8 =>
      have hr := (legalAccess_b8 off).1 hl
      have e : s.hostWrite .b8 off v = s.hostWriteDbuf (dbufIndex off) [v.setWidth 8] := by
        simp [State.hostWrite, hl]
      rcases hostWriteDbuf_cases s (dbufIndex off) [v.setWidth 8] with ⟨hb, e'⟩ | ⟨hb, e'⟩
      · exact .inr (.inr (.inl ⟨hb, e.trans e'⟩))
      · refine .inr (.inr (.inr ⟨hb, _, _, ?_, e.trans e'⟩))
        simp [dbufIndex, dbufBase]; omega

/-- The effect of a read on the state: none, a bus error, or drawn values (20_memory.md R54, R56, R61). -/
theorem hostRead_cases (s : State) (size : Size) (off : Offset) :
    (legalAccess size off = false ∧ s.hostRead size off = (s.busError, 0)) ∨
      (legalAccess size off = true ∧ ((s.hostRead size off).1 = s ∨
        (s.status.busy = true ∧ isCsr off = false ∧
          ∃ n, (s.hostRead size off).1 = { s with draws := s.draws + n }))) := by
  cases hl : legalAccess size off with
  | false => exact .inl ⟨rfl, by simp [State.hostRead, hl]⟩
  | true =>
    refine .inr ⟨rfl, ?_⟩
    cases size with
    | other b => simp [legalAccess] at hl
    | b32 =>
      cases hc : isCsr off with
      | true => exact .inl (by simp [State.hostRead, hl, hc])
      | false =>
        cases hb : s.status.busy with
        | true => exact .inr ⟨rfl, rfl, 4, by simp [State.hostRead, hl, hc, State.hostReadDbuf, hb]⟩
        | false => exact .inl (by simp [State.hostRead, hl, hc, State.hostReadDbuf, hb])
    | b8 =>
      have hc : isCsr off = false := (isCsr_eq_false off).2 ((legalAccess_b8 off).1 hl)
      cases hb : s.status.busy with
      | true => exact .inr ⟨rfl, hc, 1, by simp [State.hostRead, hl, State.hostReadDbuf, hb]⟩
      | false => exact .inl (by simp [State.hostRead, hl, State.hostReadDbuf, hb])

/-- The window decodes each register at its own offset only (10_state.md R18). -/
theorem eq_offset_of_regAt {off : Offset} {r : Reg} (h : regAt off = some r) : off = regOffset r := by
  simp only [regAt] at h
  split at h <;> cases h <;> exact BitVec.eq_of_toNat_eq ‹_›

theorem regAt_offset (r : Reg) : regAt (regOffset r) = some r := by
  cases r with
  | op r => cases r <;> rfl
  | digest k => fin_cases k <;> rfl
  | _ => rfl

/-- A register write can only do one of these (10_state.md R19, R24, R26, R27, R29). -/
theorem writeCsr_cases (s : State) (off : Offset) (v : Word) :
    s.writeCsr off v = s ∨
      (off = 0x010 ∧ s.writeCsr off v = { s with ctrl := ctrlOfWord v }) ∨
      (off = 0x014 ∧ s.writeCsr off v = { s with status := s.status.written v }) ∨
      (off = 0x018 ∧ s.status.busy = true ∧
        s.writeCsr off v = { s with status := { s.status with overrun := true } }) ∨
      (off = 0x018 ∧ s.status.busy = false ∧ s.writeCsr off v = s.issue v) ∨
      (∃ r, regAt off = some (.op r) ∧ s.writeCsr off v = { s with ops := s.ops.set r v }) := by
  cases h : regAt off with
  | none => exact .inl (by simp [State.writeCsr, h])
  | some r =>
    cases r with
    | ctrl => exact .inr (.inl ⟨eq_offset_of_regAt h, by simp [State.writeCsr, h, State.writeReg]⟩)
    | status => exact .inr (.inr (.inl ⟨eq_offset_of_regAt h, by simp [State.writeCsr, h, State.writeReg]⟩))
    | cmd =>
      cases hb : s.status.busy with
      | true =>
        exact .inr (.inr (.inr (.inl ⟨eq_offset_of_regAt h, rfl, by simp [State.writeCsr, h, State.writeReg, State.writeCmd, hb]⟩)))
      | false =>
        exact .inr (.inr (.inr (.inr (.inl ⟨eq_offset_of_regAt h, rfl, by
          simp [State.writeCsr, h, State.writeReg, State.writeCmd, hb]⟩))))
    | op r => exact .inr (.inr (.inr (.inr (.inr ⟨r, rfl, by simp [State.writeCsr, h, State.writeReg]⟩))))
    | id => exact .inl (by simp [State.writeCsr, h, State.writeReg])
    | param => exact .inl (by simp [State.writeCsr, h, State.writeReg])
    | dbufsz => exact .inl (by simp [State.writeCsr, h, State.writeReg])
    | cap => exact .inl (by simp [State.writeCsr, h, State.writeReg])
    | errinfo => exact .inl (by simp [State.writeCsr, h, State.writeReg])
    | digest k => exact .inl (by simp [State.writeCsr, h, State.writeReg])

/-! ## Steps -/

/-- With BUSY = 1 the core's turn is the completion (10_state.md R39). -/
theorem coreStep_of_busy {s : State} (h : s.status.busy = true) : s.coreStep = s.complete := by
  simp [State.coreStep, h]

/-- "The core takes no step while BUSY = 0" (10_state.md R39). -/
theorem coreStep_of_idle {s : State} (h : s.status.busy = false) : s.coreStep = .next s := by
  simp [State.coreStep, h]

/-- The core's completion can only do one of these (10_state.md R39). -/
theorem complete_cases (s : State) :
    (∃ c f, c ≠ .ok ∧ f ≠ .none ∧ s.complete = .next (s.raiseError c f)) ∨
      (∃ i h cap a v w p, decode s.latch.cmd = .ok i ∧ Commits i s h cap a v w p ∧
        s.complete = .next ((committed s h cap a v w).completeOk p)) := by
  unfold State.complete
  cases hd : decode s.latch.cmd with
  | error e => exact .inl ⟨.illegalOp, .cmd, by simp, by simp, rfl⟩
  | ok i =>
    rcases exec_cases i s with h | ⟨h, cap, a, v, w, p, hc, e⟩
    · exact .inl h
    · exact .inr ⟨i, h, cap, a, v, w, p, rfl, hc, e⟩

/-- The host's side of an access changes at most its own bus-fault flag (20_memory.md R54). -/
theorem noteBusFault_eq (s : State) (size : Size) (off : Offset) :
    ∃ b, s.noteBusFault size off = { s with host := { s.host with busFault := b } } := by
  unfold State.noteBusFault
  split
  · exact ⟨true, rfl⟩
  · exact ⟨s.host.busFault, rfl⟩

/-- The core's offsets are those of its window, each its own (20_memory.md R57). -/
theorem coreOffset?_eq_some {off : Nat} {o : Offset} : coreOffset? off = some o ↔ o.toNat = off := by
  have h := o.isLt
  rw [coreOffset?, Config.windowSize]
  split_ifs with hc
  · rw [Option.some.injEq, BitVec.toNat_eq, BitVec.toNat_ofNat, Nat.mod_eq_of_lt (by omega)]
    exact eq_comm
  · simp only [false_iff]; omega

@[simp] theorem coreOffset?_toNat (o : Offset) : coreOffset? o.toNat = some o := coreOffset?_eq_some.2 rfl

theorem coreOffset?_eq_none {off : Nat} : coreOffset? off = none ↔ 2048 ≤ off := by
  rw [coreOffset?, Config.windowSize]
  split_ifs with hc <;> simp <;> omega

/-- A host write within the window is the core's access. -/
@[simp] theorem busWrite_toNat (s : State) (size : Size) (o : Offset) (v : Word) :
    s.busWrite size o.toNat v = (s.hostWrite size o v).noteBusFault size o := by
  simp [State.busWrite]

/-- A host write past the window does nothing to the core (20_memory.md R57). -/
theorem busWrite_outside (s : State) (size : Size) {off : Nat} (v : Word) (h : 2048 ≤ off) :
    s.busWrite size off v = s := by
  simp [State.busWrite, coreOffset?_eq_none.2 h]

/-- A host read within the window is the core's access. -/
@[simp] theorem busRead_toNat (s : State) (size : Size) (o : Offset) :
    s.busRead size o.toNat = ((s.hostRead size o).1.noteBusFault size o, (s.hostRead size o).2) := by
  simp [State.busRead]

/-- A host read past the window draws a free value and does nothing to the core (20_memory.md R57). -/
theorem busRead_outside (s : State) (size : Size) {off : Nat} (h : 2048 ≤ off) :
    s.busRead size off = ({ s with draws := s.draws + 1 }, outsideValue size (Config.outsideDraw s.draws)) := by
  simp [State.busRead, coreOffset?_eq_none.2 h]

/-- What a host write can do: an access of the core, or nothing. -/
theorem busWrite_cases (s : State) (size : Size) (off : Nat) (v : Word) :
    (∃ o : Offset, o.toNat = off ∧ s.busWrite size off v = (s.hostWrite size o v).noteBusFault size o) ∨
      (2048 ≤ off ∧ s.busWrite size off v = s) := by
  cases h : coreOffset? off with
  | none => have h := coreOffset?_eq_none.1 h; exact .inr ⟨h, busWrite_outside s size v h⟩
  | some o => cases coreOffset?_eq_some.1 h; exact .inl ⟨o, rfl, busWrite_toNat s size o v⟩

/-- What a host read can do to the state: an access of the core, or one more free value drawn. -/
theorem busRead_cases (s : State) (size : Size) (off : Nat) :
    (∃ o : Offset, o.toNat = off ∧
        s.busRead size off = ((s.hostRead size o).1.noteBusFault size o, (s.hostRead size o).2)) ∨
      (2048 ≤ off ∧ (s.busRead size off).1 = { s with draws := s.draws + 1 }) := by
  cases h : coreOffset? off with
  | none => have h := coreOffset?_eq_none.1 h; exact .inr ⟨h, by rw [busRead_outside s size h]⟩
  | some o => cases coreOffset?_eq_some.1 h; exact .inl ⟨o, rfl, busRead_toNat s size o⟩

/-- A host statement that goes on can only do one of these (30_encoding.md R74). -/
theorem runStmt_cases {s t : State} {st : Stmt} (h : s.runStmt st = .next t) :
    (∃ size off v, st = .write size off v ∧ t = (s.busWrite size off v).hostNext) ∨
      (∃ size off x, st = .read size off x ∧
        t = ((s.busRead size off).1.setVar x (s.busRead size off).2).hostNext) ∨
      (((∃ l, st = .label l) ∨ ∃ x m v l, st = .bne x m v l) ∧ ∃ pc, t = s.hostAt pc) := by
  cases st with
  | write size off v => exact .inl ⟨_, _, _, rfl, by simpa [State.runStmt] using h.symm⟩
  | read size off x => exact .inr (.inl ⟨_, _, _, rfl, by simpa [State.runStmt] using h.symm⟩)
  | label l => exact .inr (.inr ⟨.inl ⟨_, rfl⟩, s.host.pc + 1, by cases h; rfl⟩)
  | bne x m v l =>
    refine .inr (.inr ⟨.inr ⟨_, _, _, _, rfl⟩, ?_⟩)
    simp only [State.runStmt, State.runBne] at h
    split at h
    · cases h
    · split_ifs at h
      · exact ⟨s.host.pc + 1, by cases h; rfl⟩
      · split at h
        · cases h
        · exact ⟨_, by simpa using h.symm⟩

/-- Everything one step can do. -/
theorem step_cases {s t : State} (h : step s = .next t) :
    (s.nextTurn = .reset ∧ t = s.popTurn.resetEvent) ∨
      (s.nextTurn = .core ∧ s.status.busy = false ∧ t = s.popTurn) ∨
      (s.nextTurn = .core ∧ s.status.busy = true ∧
        ((∃ c f, c ≠ .ok ∧ f ≠ .none ∧ t = s.popTurn.raiseError c f) ∨
          (∃ i h cap a v w p, decode s.latch.cmd = .ok i ∧ Commits i s.popTurn h cap a v w p ∧
            t = (committed s.popTurn h cap a v w).completeOk p))) ∨
      (s.nextTurn = .host ∧ ((s.hostStmt? = none ∧ t = s.popTurn) ∨
        ∃ st, s.hostStmt? = some st ∧ s.popTurn.runStmt st = .next t)) := by
  unfold step at h
  cases hn : s.nextTurn with
  | reset =>
    rw [hn] at h
    exact .inl ⟨rfl, by simpa [State.takeTurn] using h.symm⟩
  | core =>
    rw [hn] at h
    replace h : s.popTurn.coreStep = .next t := h
    cases hb : s.status.busy with
    | false =>
      rw [coreStep_of_idle (by simpa using hb)] at h
      exact .inr (.inl ⟨rfl, rfl, by simpa using h.symm⟩)
    | true =>
      refine .inr (.inr (.inl ⟨rfl, rfl, ?_⟩))
      rw [coreStep_of_busy (by simpa using hb)] at h
      rcases complete_cases s.popTurn with ⟨c, f, h1, h2, e⟩ | ⟨i, h', cap, a, v, w, p, hd, hc, e⟩
      · rw [e] at h; exact .inl ⟨c, f, h1, h2, by simpa using h.symm⟩
      · rw [e] at h; exact .inr ⟨i, h', cap, a, v, w, p, hd, hc, by simpa using h.symm⟩
  | host =>
    rw [hn] at h
    refine .inr (.inr (.inr ⟨rfl, ?_⟩))
    simp only [State.takeTurn, State.hostStep] at h
    have e : s.popTurn.hostStmt? = s.hostStmt? := rfl
    rw [e] at h
    cases hs : s.hostStmt? with
    | none => exact .inl ⟨rfl, by simpa [hs] using h.symm⟩
    | some st => exact .inr ⟨st, rfl, by simpa [hs] using h⟩

/-- The turn is the head of the list of turns when there is one. -/
theorem nextTurn_cons {s : State} {t : Turn} {ts : List Turn} (h : s.sched = t :: ts) : s.nextTurn = t := by
  simp [State.nextTurn, h]

/-- The core's turn. -/
theorem step_core {s : State} (h : s.nextTurn = .core) : step s = s.popTurn.coreStep := by
  rw [step, h]; rfl

/-- The host's turn, on a statement of its program. -/
theorem step_host {s : State} {st : Stmt} (h : s.nextTurn = .host) (hs : s.hostStmt? = some st) :
    step s = s.popTurn.runStmt st := by
  have e : s.popTurn.hostStmt? = some st := hs
  rw [step, h]
  simp [State.takeTurn, State.hostStep, e]

/-! ## Runs of the host's interface -/

theorem run_zero (s : State) : Host.Core.run core 0 s = .next s := rfl

theorem run_succ_of_next (n : Nat) {s t : State} (h : step s = .next t) :
    Host.Core.run core (n + 1) s = Host.Core.run core n t := by
  refine (Host.Core.run.eq_2 core s n).trans ?_
  rw [show core.step s = .next t from h]

theorem run_succ_inv {n : Nat} {s u : State} (h : Host.Core.run core (n + 1) s = .next u) :
    ∃ t, step s = .next t ∧ Host.Core.run core n t = .next u := by
  have e := (Host.Core.run.eq_2 core s n).symm.trans h
  cases hs : step s with
  | next t => exact ⟨t, rfl, (run_succ_of_next n hs).symm.trans h⟩
  | fault r => rw [show core.step s = .fault r from hs] at e; cases e
  | refused r => rw [show core.step s = .refused r from hs] at e; cases e

/-! ## The window in the host's address space -/

/-- Every window offset is reached at its own address (20_memory.md R48). -/
theorem windowOffset_windowAddress (p : Platform) (off : Offset) :
    windowOffset? p (windowAddress p off) = some off := by
  rw [windowOffset?, windowAddress, if_pos (Nat.le_add_right ..), Nat.add_sub_cancel_left, coreOffset?_toNat]

/-- An address whose offset is given lies in the window. -/
theorem windowAddress_of_windowOffset {p : Platform} {addr : Nat} {off : Offset}
    (h : windowOffset? p addr = some off) : windowAddress p off = addr := by
  simp only [windowOffset?] at h
  split_ifs at h with hc
  rw [windowAddress, coreOffset?_eq_some.1 h]
  omega

/-! ## The lines of a host program -/

@[simp] theorem loadBytes_length (o : Nat) (hex : Bytes) : (loadBytes o hex).length = hex.length := by
  induction hex generalizing o with
  | nil => rfl
  | cons b rest ih => simp [loadBytes, ih]

theorem offsetWf_offset (o : Offset) : offsetWf o.toNat = true := by
  rw [offsetWf, Config.windowSize, decide_eq_true_iff]; exact o.isLt

theorem loadBytes_wf (labels : List Label) {o : Nat} {hex : Bytes} (h : o + hex.length ≤ 1024) :
    (loadBytes o hex).all (Stmt.wf labels) = true := by
  induction hex generalizing o with
  | nil => rfl
  | cons b rest ih =>
    simp only [List.length_cons] at h
    have hb := b.isLt
    have ho : offsetWf (dbufBase + o) = true := by
      rw [offsetWf, Config.windowSize, dbufBase, decide_eq_true_iff]; omega
    have hv : decide ((b.setWidth 32 : Word).toNat < 256) = true := by
      rw [decide_eq_true_iff, BitVec.toNat_setWidth]; omega
    simp only [loadBytes, List.all_cons, Bool.and_eq_true]
    exact ⟨by rw [wr8Dbuf, Stmt.wf, ho, hv]; rfl, ih (by omega)⟩

/-- A well-formed line has well-formed statements (30_encoding.md R74, R75). -/
theorem expandLine_wf {labels : List Label} {line : Line} (h : line.wf labels = true) :
    (expandLine line).all (Stmt.wf labels) = true := by
  cases line with
  | stmt st => simpa [expandLine, Line.wf] using h
  | load o hex => exact loadBytes_wf labels (of_decide_eq_true h)
  | wait l st => simp [expandLine, Stmt.wf, rd32, offsetWf_offset, Size.wf]; simpa [Line.wf] using h
  | dump o n v =>
    replace h : o + n ≤ 1024 := of_decide_eq_true h
    simp only [expandLine, rd8Dbuf, List.all_map, List.all_eq_true, List.mem_range, Function.comp_apply]
    intro k hk
    have ho : offsetWf (dbufBase + (o + k)) = true := by
      rw [offsetWf, Config.windowSize, dbufBase, decide_eq_true_iff]; omega
    simp [Stmt.wf, ho, Size.wf]
  | _ => simp [expandLine, Stmt.wf, wrCmd, wr32, offsetWf_offset, Size.wf]

end Sys2Proof.Machine
end

