-- ==== Sys2Proof/Tests/Slice0.lean ====
section
/-! SUPPORT. Tests. Expected values are those of 95_test_vectors.md and of the rules named beside each test.
The second half holds, for every obligation with premises, a concrete state and operands that meet them. -/

namespace Sys2Proof.Tests

open Sys2Proof.Machine

set_option Elab.async false

/-! ## Helpers -/

/-- Operand registers, all 0 but for the ones an update names. -/
def ops0 : OpRegs := OpRegs.zero

/-- The state after reset with the bytes `m` at DBUF offset 0, the operand registers `o`, and the word `w`
issued; the core moves next. -/
def inFlight (w : Word) (o : OpRegs) (m : Bytes) : State :=
  { State.reset.memWrite 0 m with ops := o }.issue w

/-- The state an outcome goes on with; the state after reset where it stops. -/
def next! (x : Host.Outcome State Fault Refusal) : State :=
  match x with
  | .next s => s
  | .fault _ | .refused _ => State.reset

/-- STATUS and ERRINFO after the next step. -/
def report (s : State) : Word × Word := ((next! (step s)).status.word, (next! (step s)).errinfo.word)

/-- The state after reset on another build. -/
def onBuild (s : State) (vec : Bool) (scratch : Nat) : State := { s with build := ⟨vec, scratch⟩ }

/-- A host program about to run, the host moving next. -/
def hostRuns (s : State) (prog : List Stmt) : State :=
  { s with host := ⟨prog, 0, [], false⟩, sched := [.host] }

/-! ## Decoding (30_encoding.md R67 to R69, R72) -/

theorem test_decode_sha_words :
    decode 0b00000000000000000000000000000001#32 = .ok .sha256Init ∧
    decode 0b00000000000000000000000000000010#32 = .ok .sha256Compress ∧
    decode 0b00000000000000000000000000000011#32 = .ok .sha256Digest := by decide

theorem test_decode_hmac_pbkdf2_words :
    decode 0b00000000000000000000000000000100#32 = .ok .hmacSha256 ∧
    decode 0b00000000000000000000000000000101#32 = .ok .pbkdf2Sha256 := by decide

theorem test_decode_salsa_romix_words :
    decode 0b00000000000000000000000000000110#32 = .ok .salsa208 ∧
    decode 0b00000000000000000000000000000111#32 = .ok .blockmix ∧
    decode 0b00000000000000000000000000001000#32 = .ok .romix := by decide

theorem test_decode_scrypt_dispatch_words :
    decode 0b00000000000000000000000000001001#32 = .ok .scrypt ∧
    decode 0b00000000000000000000000000001010#32 = .ok .detect ∧
    decode 0b00000000000000000000000000000000#32 = .ok .nop := by decide

theorem test_decode_refuses :
    decode 0b00000000000000000000000000001011#32 = .error .unknownOp ∧
    decode 0b00000000000000000000000011111111#32 = .error .unknownOp ∧
    decode 0b00000000000000000000000100001001#32 = .error .reservedBits ∧
    decode 0b10000000000000000000000000000000#32 = .error .reservedBits := by decide

theorem test_decodeTableWord :
    decodeTableWord 32 0x9 = some .scrypt ∧ decodeTableWord 32 0x109 = none ∧
    decodeTableWord 32 0xB = none := by decide

/-! ## WellFormed: an ill-formed term for each check -/

theorem test_wf_size : (Size.other 8).wf = false ∧ (Size.other 32).wf = false ∧ (Size.other 16).wf = true := by
  decide

theorem test_wf_byte_write : (Stmt.write .b8 0x400 0x100).wf [] = false ∧ (Stmt.write .b8 0x400 0xFF).wf [] = true := by
  decide

/-- The first offset past the window (20_memory.md R57), and the last inside it. -/
theorem test_wf_offset : (Stmt.write .b32 0x800 0).wf [] = false ∧ (Stmt.write .b8 0x800 0).wf [] = false ∧
    (Stmt.read .b8 0x800 0).wf [] = false ∧ (Stmt.read .b8 0x7FF 0).wf [] = true := by decide

theorem test_wf_line : (Line.load 1023 [1, 2]).wf [] = false ∧ (Line.dump 1023 2 0).wf [] = false ∧
    (Line.load 1023 [1]).wf [] = true ∧ (Line.dump 1022 2 0).wf [] = true ∧ (Line.wait 7 0).wf [] = false := by
  decide

theorem test_wf_write_size : (Stmt.write (.other 32) 0x400 0).wf [] = false := by decide

theorem test_wf_read_size : (Stmt.read (.other 8) 0x400 0).wf [] = false := by decide

theorem test_wf_branch_label : programWf [.bne 0 1 0 7] = false ∧ programWf [.label 7, .bne 0 1 0 7] = true := by
  decide

theorem test_branches_declared : branchesDeclared [.bne 0 1 0 7] = false ∧
    branchesDeclared [.label 7, .bne 0 1 0 7] = true := by decide

theorem test_wf_duplicate_label : programWf [.label 7, .label 7] = false := by decide

theorem test_wf_instr : Instr.wf .scrypt = true := by decide

/-! ## Reset and the window (A-1 to A-6) -/

theorem test_reset_registers :
    (State.reset.hostRead .b32 0x000).2 = 0x53435259 ∧ (State.reset.hostRead .b32 0x004).2 = 0x0001010A ∧
    (State.reset.hostRead .b32 0x008).2 = 0x00000400 ∧ (State.reset.hostRead .b32 0x00C).2 = 0 ∧
    (State.reset.hostRead .b32 0x040).2 = 0x6A09E667 := by decide

theorem test_reset_memory_wf : Memory.wf State.reset.dbuf = true ∧ Scratch.wf State.reset.scratch = true := by
  decide

theorem test_dbuf_little_endian :
    ((State.reset.hostWrite .b32 0x400 0x11223344).hostRead .b8 0x400).2 = 0x44 ∧
    ((State.reset.hostWrite .b32 0x400 0x11223344).hostRead .b8 0x403).2 = 0x11 := by decide

theorem test_unaligned_read : (State.reset.hostRead .b32 0x402).2 = 0 ∧
    (State.reset.hostRead .b32 0x402).1.status.word = 0x20 := by decide

theorem test_byte_write_to_cmd : (State.reset.hostWrite .b8 0x018 0x01).status.word = 0x20 := by decide

theorem test_sixteen_bit_access : (State.reset.hostWrite (.other 16) 0x400 0x01).status.word = 0x20 := by decide

theorem test_reserved_offset : State.reset.hostRead .b32 0x03C = (State.reset, 0) ∧
    State.reset.hostWrite .b32 0x000 0 = State.reset := by decide

/-! ## While BUSY (A-7, A-8), W1C (A-10, A-11), irq (A-12) -/

theorem test_overrun : (((inFlight 9 ops0 []).hostWrite .b32 0x018 1).status.overrun = true) ∧
    ((inFlight 9 ops0 []).hostWrite .b32 0x018 1).cmd = 9 := by decide

theorem test_busy_acc : ((inFlight 9 ops0 [0x5A]).hostWrite .b8 0x400 1).status.busyAcc = true ∧
    ((inFlight 9 ops0 [0x5A]).hostWrite .b8 0x400 1).dbufByte 0 = 0x5A := by decide

/-- A-10: after E-17. -/
theorem test_w1c_clears_done_and_err :
    ((next! (step (inFlight 9 { ops0 with len0 := 79, dst := 1000 } []))).hostWrite .b32 0x014 0x2).status.word = 0 ∧
    ((next! (step (inFlight 9 { ops0 with len0 := 79, dst := 1000 } []))).hostWrite .b32 0x014 0x2).errinfo.word
      = 0x509 := by decide

theorem test_ack_clears_all :
    (Status.written ⟨false, true, false, true, true, true, .range⟩ 0x3A).word = 0 := by decide

theorem test_irq :
    ({ next! (step (inFlight 0 ops0 [])) with ctrl := ⟨true, false⟩ }).irq = true ∧
    (({ next! (step (inFlight 0 ops0 [])) with ctrl := ⟨true, false⟩ }).hostWrite .b32 0x010 0).irq = false ∧
    (({ next! (step (inFlight 0 ops0 [])) with ctrl := ⟨true, false⟩ }).hostWrite .b32 0x010 0).status.done = true := by
  decide

/-! ## Commands -/

theorem test_nop : report (inFlight 0 ops0 []) = (0x2, 0x0) := by decide

/-- H-3. -/
theorem test_sha256_init :
    (next! (step { inFlight 1 ops0 [] with h := Vector.replicate 8 0 })).h[0] = 0x6a09e667 ∧
    (next! (step { inFlight 1 ops0 [] with h := Vector.replicate 8 0 })).h[7] = 0x5be0cd19 ∧
    report (inFlight 1 ops0 []) = (0x2, 0x1) := by decide

/-- H-4: "abc" padded. -/
theorem test_sha256_compress_abc :
    (next! (step (inFlight 2 ops0 ([0x61, 0x62, 0x63, 0x80] ++ List.replicate 59 0 ++ [0x18])))).h =
      #v[0xba7816bf, 0x8f01cfea, 0x414140de, 0x5dae2223, 0xb00361a3, 0x96177a9c, 0xb410ff61, 0xf20015ad] := by
  decide +kernel

/-- E-4, H-12. -/
theorem test_sha256_compress_range :
    report (inFlight 2 { ops0 with src0 := 961 } []) = (0x502, 0x202) ∧
    (report (inFlight 2 { ops0 with src0 := 960 } [])).1 = 0x2 := by decide +kernel

/-- H-11, H-2: "abc" in place. -/
theorem test_sha256_digest_abc :
    (next! (step (inFlight 3 { ops0 with len0 := 3 } [0x61, 0x62, 0x63]))).memRead 0 8 =
      [0xba, 0x78, 0x16, 0xbf, 0x8f, 0x01, 0xcf, 0xea] := by decide +kernel

/-- E-5, E-6, E-7. -/
theorem test_sha256_digest_errors :
    report (inFlight 3 { ops0 with len0 := 1025 } []) = (0x502, 0x203) ∧
    report (inFlight 3 { ops0 with src0 := 0xFFFFFFFF, len0 := 2 } []) = (0x502, 0x203) ∧
    report (inFlight 3 { ops0 with len0 := 4, dst := 993 } []) = (0x502, 0x403) := by decide

/-- M-3: empty key, empty message. -/
theorem test_hmac_empty : (hmac [] []).take 8 = [0xb6, 0x13, 0x67, 0x9a, 0x08, 0x14, 0xd9, 0xec] := by
  decide +kernel

/-- E-8. -/
theorem test_hmac_error_order :
    report (inFlight 4 { ops0 with src1 := 1000, len1 := 25, dst := 2000 } []) = (0x502, 0x304) := by decide

/-- K-6: two iterations, one byte. -/
theorem test_pbkdf2_two_iterations :
    (next! (step (inFlight 5
      { ops0 with len0 := 8, src1 := 8, len1 := 4, iter := 2, len2 := 1, dst := 1023 }
      [0x70, 0x61, 0x73, 0x73, 0x77, 0x6f, 0x72, 0x64, 0x73, 0x61, 0x6c, 0x74]))).dbufByte 1023 = 0xae := by
  decide +kernel

/-- E-9, E-10, E-11. -/
theorem test_pbkdf2_errors :
    report (inFlight 5 ops0 []) = (0x302, 0x705) ∧
    report (inFlight 5 { ops0 with len2 := 32 } []) = (0x402, 0x805) ∧
    report (inFlight 5 { ops0 with len2 := 32, iter := 1, dst := 1000 } []) = (0x502, 0x405) := by decide

/-- S3: 01 followed by 63 zero bytes. -/
theorem test_salsa_one :
    (next! (step (inFlight 6 { ops0 with dst := 64 } (1 :: List.replicate 63 0)))).memRead 64 8 =
      [0x5a, 0xe9, 0xe9, 0x72, 0x37, 0x9a, 0x69, 0x04] := by decide +kernel

/-- E-12, E-13: CAP not updated. -/
theorem test_salsa_errors :
    report (inFlight 6 { ops0 with src0 := 961 } []) = (0x502, 0x206) ∧
    report (inFlight 6 { ops0 with dst := 961 } []) = (0x502, 0x406) ∧
    (next! (step (inFlight 6 { ops0 with src0 := 961 } []))).cap.word = 0 := by decide

/-- B1: 00 01 02 ... 7f. -/
theorem test_blockmix_counting :
    let out := (next! (step (inFlight 7 ops0 ((List.range 128).map (BitVec.ofNat 8))))).memRead 0 128
    out.take 4 = [0x6c, 0xb2, 0x21, 0x5a] ∧ out.drop 124 = [0x8f, 0xed, 0xdc, 0x0e] := by
  decide +kernel

/-- E-14: 897 is out of range, 896 legal. -/
theorem test_blockmix_range :
    report (inFlight 7 { ops0 with src0 := 897 } []) = (0x502, 0x207) ∧
    (report (inFlight 7 { ops0 with src0 := 896 } [])).2 = 0x7 := by decide

/-- I-1, I-2, I-3. -/
theorem test_integerify :
    integerify (List.replicate 64 0 ++ [0xff, 0x07]) = 1023 ∧
    integerify (List.replicate 64 0 ++ [0x34, 0x12]) = 564 ∧
    integerify (List.replicate 64 0 ++ [0xff, 0xff, 0xff, 0xff]) = 1023 := by decide +kernel

/-- E-15, E-16, and a legal ROMIX on a build with the vector datapath. -/
theorem test_romix_reports :
    report (inFlight 8 { ops0 with dst := 897 } []) = (0x502, 0x408) ∧
    report (onBuild (inFlight 8 ops0 []) true 131071) = (0x602, 0x908) ∧
    report (onBuild (inFlight 8 ops0 []) true 131072) = (0x6, 0x8) := by decide +kernel

/-- E-17 to E-21. -/
theorem test_scrypt_errors :
    report (inFlight 9 { ops0 with len0 := 79, dst := 1000 } []) = (0x202, 0x509) ∧
    report (inFlight 9 { ops0 with len0 := 80, len2 := 31 } []) = (0x302, 0x709) ∧
    report (inFlight 9 { ops0 with len0 := 80, len2 := 32, src0 := 945 } []) = (0x502, 0x209) ∧
    report (inFlight 9 { ops0 with len0 := 80, len2 := 32, dst := 993 } []) = (0x502, 0x409) ∧
    report (onBuild (inFlight 9 { ops0 with len0 := 80, len2 := 32 } []) true 0) = (0x602, 0x909) := by
  decide +kernel

/-- L3.1: STATUS = 2 + 4v, CAP = 1 + 2v after a legal SCRYPT. -/
theorem test_scrypt_reports :
    report (inFlight 9 { ops0 with len0 := 80, len2 := 32, dst := 0x80 } []) = (0x2, 0x9) ∧
    (next! (step (onBuild (inFlight 9 { ops0 with len0 := 80, len2 := 32, dst := 0x80 } []) true 131072))).cap.word = 3 := by
  decide +kernel

theorem test_detect :
    report (inFlight 10 ops0 []) = (0x2, 0xA) ∧ (next! (step (inFlight 10 ops0 []))).cap.word = 1 ∧
    (next! (step (onBuild (inFlight 10 ops0 []) true 131072))).cap.word = 3 := by decide

/-- E-1, E-2, E-3. -/
theorem test_illegal_words :
    report (inFlight 0x0000000B ops0 []) = (0x102, 0x10B) ∧
    report (inFlight 0x00000109 ops0 []) = (0x102, 0x109) ∧
    report (inFlight 0xFFFFFFFF ops0 []) = (0x102, 0x1FF) ∧
    (inFlight 0xFFFFFFFF ops0 []).cmd = 0xFFFFFFFF := by decide

/-- The datapath table of 95_test_vectors.md. -/
theorem test_select_path :
    (onBuild (inFlight 6 ops0 []) true 131072).selectPath = true ∧
    (onBuild (inFlight 6 ops0 []) false 131072).selectPath = false ∧
    ({ onBuild (inFlight 6 ops0 []) true 131072 with latch := ⟨6, ops0, true⟩ }).selectPath = false := by decide

/-! ## The host agent -/

theorem test_wait_expansion : expandLine (.wait 7 0) =
    [.label 7, .read .b32 0x014 0, .bne 0 0x1 0x0 7] := by decide

theorem test_ack_expansion : expandLine .ack = [.write .b32 0x014 0x0000003A] := by decide

theorem test_scrypt_expansion : expandLine (.scrypt 0x000 0x080) =
    [.write .b32 0x020 0, .write .b32 0x02C 0x50, .write .b32 0x028 0x80, .write .b32 0x034 0x20,
      .write .b32 0x018 0x9] := by decide

theorem test_load_dump_expansion :
    expandLine (.load 2 [0xAB, 0xCD]) = [.write .b8 0x402 0xAB, .write .b8 0x403 0xCD] ∧
    expandLine (.dump 2 2 5) = [.read .b8 0x402 5, .read .b8 0x403 6] := by decide

/-- A byte past the window is not the core's (20_memory.md R57): LOAD 2048 does not reach DBUF[0], LOAD 1024
raises no bus error, DUMP 2048 does not read DBUF[0]. -/
theorem test_past_the_window :
    (next! (step (hostRuns State.reset (expandLine (.load 2048 [0xAB]))))).dbuf = [] ∧
    (next! (step (hostRuns State.reset (expandLine (.load 1024 [0xAB]))))).status.word = 0 ∧
    (next! (step (hostRuns State.reset (expandLine (.load 1023 [0xAB]))))).dbuf = [(1023, 0xAB)] ∧
    (next! (step (hostRuns State.reset (expandLine (.dump 2048 1 5))))).host.vars =
      [(5, ((Config.outsideDraw 0).setWidth 8).setWidth 32)] := ⟨rfl, rfl, rfl, rfl⟩

theorem test_coreOffset : coreOffset? 0x7FF = some 0x7FF ∧ coreOffset? 0x800 = none ∧
    windowOffset? ⟨0x1000, false, 0⟩ 0x1018 = some 0x018 ∧ windowOffset? ⟨0x1000, false, 0⟩ 0xFFF = none ∧
    windowOffset? ⟨0x1000, false, 0⟩ 0x1800 = none := by decide

theorem test_turns : (next! (step { State.reset with sched := [.reset, .core] })).sched = [.core] ∧
    (next! (step { State.reset with sched := [.reset, .core] })).resets = 1 := by decide

/-! ## Witnesses: for every obligation with premises, values that meet them -/

theorem witness_OnlyTableWordsSelectCommands : Instr.wf .romix = true := by decide

/-- The first illegal OP, the last, the lowest and the highest RSV bit; an idle state and one in flight. -/
theorem witness_IllegalWordCompletesWithIllegalOp :
    0x0A < (0x0B#32).toNat % 256 ∧ 0x0A < (0xFF#32).toNat % 256 ∧
    (0x100#32) >>> 8 ≠ 0 ∧ (0x80000000#32) >>> 8 ≠ 0 ∧ State.reset.status.busy = false ∧
    (inFlight 0x0B ops0 []).status.busy = true ∧ (inFlight 0x0B ops0 []).latch.cmd = 0x0B ∧
    (inFlight 0x0B ops0 []).nextTurn = .core := by decide

theorem witness_StepRunsDecodedCommand :
    (inFlight 9 ops0 []).status.busy = true ∧ decode (inFlight 9 ops0 []).latch.cmd = .ok .scrypt ∧
    (inFlight 9 ops0 []).nextTurn = .core := by decide

theorem witness_IdleAgentsChangeNothing :
    State.reset.status.busy = false ∧ { State.reset with sched := [.core] }.nextTurn = .core ∧
    State.reset.hostStmt? = none ∧ State.reset.nextTurn = .host := by decide

/-- No host turn, and two. -/
theorem witness_CompletionAfterAnyNumberOfHostTurns :
    (inFlight 0 ops0 []).status.busy = true ∧
    Host.Core.run core 0 { inFlight 0 ops0 [] with sched := [.core] } =
      .next { inFlight 0 ops0 [] with sched := [.core] } ∧
    ∃ u, Host.Core.run core 2 { inFlight 0 ops0 [] with sched := [.host, .host, .core] } = .next u :=
  ⟨rfl, rfl, _, rfl⟩

theorem witness_ResetStepFromAnyState : { inFlight 9 ops0 [1] with sched := [.reset] }.nextTurn = .reset := by
  decide

/-- A failed command on a detected vector build, acknowledged by nobody. -/
def afterError : State :=
  { next! (step (onBuild (inFlight 9 { ops0 with len0 := 79 } [0x11]) true 131072)) with
    cap := ⟨true, true⟩, host := ⟨[.label 0], 0, [(3, 7)], false⟩ }

theorem witness_EveryStepKeepsInvariant : Inv afterError ∧ ∃ t, step afterError = .next t :=
  ⟨by constructor <;> decide, _, rfl⟩

theorem witness_EveryStepKeepsParameters : ∃ t, step afterError = .next t := ⟨_, rfl⟩

/-- DETECT writes CAP; the next DETECT does not. -/
theorem witness_CapIsWrittenOncePerReset :
    (inFlight 10 ops0 []).nextTurn ≠ .reset ∧ ∃ t, step (inFlight 10 ops0 []) = .next t ∧
      t.cap = ⟨true, false⟩ ∧ ∃ u, step (t.issue 10) = .next u ∧ u.cap = t.cap :=
  ⟨by decide, _, rfl, rfl, _, rfl, rfl⟩

/-- An issue, a completion and a reset. -/
theorem witness_OnlyIssueCompletionResetChangeBusy :
    (∃ t, step (hostRuns State.reset [.write .b32 0x018 0]) = .next t ∧ t.status.busy = true) ∧
    (∃ t, step (inFlight 0 ops0 []) = .next t ∧ t.status.busy = false) ∧
    (∃ t, step { inFlight 0 ops0 [] with sched := [.reset] } = .next t ∧ t.status.busy = false) :=
  ⟨⟨_, rfl, rfl⟩, ⟨_, rfl, rfl⟩, ⟨_, rfl, rfl⟩⟩

/-- The three sticky bits, set, and cleared by one write of 0x38. -/
def sticky : State :=
  { hostRuns State.reset [.write .b32 0x014 0x38] with
    status := ⟨false, false, false, true, true, true, .ok⟩ }

theorem witness_StickyBitsClearedOnlyByW1C :
    sticky.nextTurn ≠ .reset ∧ sticky.status.overrun = true ∧ sticky.status.busyAcc = true ∧
    sticky.status.busErr = true ∧ ∃ t, step sticky = .next t ∧ t.status.overrun = false ∧
      t.status.busyAcc = false ∧ t.status.busErr = false :=
  ⟨by decide, rfl, rfl, rfl, _, rfl, rfl, rfl, rfl⟩

theorem witness_DigestRegistersWrittenOnlyByInitAndCompress :
    ∃ t, step { inFlight 1 ops0 [] with h := Vector.replicate 8 0 } = .next t ∧
      t.h[0] ≠ (Vector.replicate 8 (0 : Word))[0] := ⟨_, rfl, by decide⟩

theorem witness_HostCannotDisturbCommandInFlight :
    (hostRuns (inFlight 9 ops0 []) [.write .b8 0x400 1]).status.busy = true ∧
    (hostRuns (inFlight 9 ops0 []) [.write .b8 0x400 1]).nextTurn = .host ∧
    ∃ t, step (hostRuns (inFlight 9 ops0 []) [.write .b8 0x400 1]) = .next t := ⟨rfl, rfl, _, rfl⟩

/-- The ends of each range, and each kind of unsupported access. -/
theorem witness_ReservedAndReadOnlyOffsets :
    (0x03C : Offset).toNat % 4 = 0 ∧ 0x060 ≤ (0x060 : Offset).toNat ∧ (0x060 : Offset).toNat % 4 = 0 ∧
    (0x3FC : Offset).toNat ≤ 0x3FC ∧ (0x3FC : Offset).toNat % 4 = 0 ∧
    (0x000 : Offset).toNat ≤ 0x00C ∧ (0x00C : Offset).toNat % 4 = 0 ∧ (0x01C : Offset).toNat % 4 = 0 ∧
    0x040 ≤ (0x040 : Offset).toNat ∧ (0x05C : Offset).toNat ≤ 0x05C ∧
    (0x3FF : Offset).toNat < 0x400 ∧ ¬ (Size.b8 = .b32 ∧ (0x3FF : Offset).toNat % 4 = 0) ∧
    ¬ (Size.b32 = .b32 ∧ (0x3FE : Offset).toNat % 4 = 0) := by decide

theorem witness_BusErrorSetsBusErrOnly :
    (Size.b32 = .b32 ∧ (0x401 : Offset).toNat % 4 ≠ 0) ∧ (Size.b8 = .b8 ∧ (0x3FF : Offset).toNat < 0x400) ∧
    ∃ bits, Size.other 16 = .other bits := ⟨by decide, by decide, 16, rfl⟩

theorem witness_ReadsHaveNoSideEffect :
    (Size.b32 = .b32 ∧ (0x7FC : Offset).toNat % 4 = 0) ∧ (Size.b8 = .b8 ∧ 0x400 ≤ (0x400 : Offset).toNat) ∧
    (0x3FC : Offset).toNat < 0x400 ∧ State.reset.status.busy = false := by decide

theorem witness_HostDbufAccessIsLittleEndian :
    0x400 ≤ (0x400 : Offset).toNat ∧ (0x400 : Offset).toNat % 4 = 0 ∧ (0x7FC : Offset).toNat % 4 = 0 ∧
    0x400 ≤ (0x7FF : Offset).toNat ∧ State.reset.status.busy = false := by decide

theorem witness_CmdWriteIssuesOrOverruns :
    State.reset.status.busy = false ∧ (inFlight 9 ops0 []).status.busy = true := by decide

theorem witness_DbufBelongsToTheCoreWhileBusy :
    (inFlight 9 ops0 []).status.busy = true ∧ 0x400 ≤ (0x400 : Offset).toNat ∧
    (Size.b32 = .b32 ∧ (0x7FC : Offset).toNat % 4 = 0) ∧ 0x400 ≤ (0x7FF : Offset).toNat := by decide

theorem witness_StatusWriteClearsMarkedBits :
    (0x2 : Word).getLsbD 1 = true ∧ (0x38 : Word).getLsbD 1 = false := by decide

theorem witness_OperandAndControlWrites : OpReg.src0 ≠ .iter := by decide

theorem witness_IrqFollowsEnableAndDone :
    (∃ t, (inFlight 0 ops0 []).complete = .next t) ∧ (0x2 : Word).getLsbD 1 = true ∧
    State.reset.status.busy = false ∧ (0x2 : Word).getLsbD 0 = false ∧ (inFlight 0 ops0 []).status.busy = true ∧
    0x400 ≤ (0x400 : Offset).toNat ∧ legalAccess .b8 0x3FF = false := ⟨⟨_, rfl⟩, by decide⟩

theorem witness_NopCompletesWithNoEffect : (inFlight 0 ops0 []).latch.cmd = 0 := by decide

theorem witness_Sha256InitLoadsInitialValue : (inFlight 1 ops0 []).latch.cmd = 1 := by decide

theorem witness_DetectLatchesCapability : (inFlight 10 ops0 []).latch.cmd = 10 := by decide

/-- The last offset in range and the first out of it. -/
theorem witness_Sha256CompressChainsOneBlock :
    (∀ o, (inFlight 2 o []).latch.cmd = 2) ∧
    (∃ o, (inFlight 2 o []).latch.ops = o ∧ o.src0.toNat + 64 ≤ 1024) ∧
    (∃ o, (inFlight 2 o []).latch.ops = o ∧ 1024 < o.src0.toNat + 64) :=
  ⟨fun _ => rfl,
    ⟨{ ops0 with src0 := 960 }, rfl, by decide⟩,
    ⟨{ ops0 with src0 := 961 }, rfl, by decide⟩⟩

/-- An empty message at the end of DBUF; a sum above 2^32; DST one too high. -/
theorem witness_Sha256DigestWritesDigest :
    (∀ o, (inFlight 3 o []).latch.cmd = 3) ∧
    (∃ o, (inFlight 3 o []).latch.ops = o ∧ o.src0.toNat + o.len0.toNat ≤ 1024 ∧ o.dst.toNat + 32 ≤ 1024) ∧
    (∃ o, (inFlight 3 o []).latch.ops = o ∧ 1024 < o.src0.toNat + o.len0.toNat) ∧
    (∃ o, (inFlight 3 o []).latch.ops = o ∧ o.src0.toNat + o.len0.toNat ≤ 1024 ∧ 1024 < o.dst.toNat + 32) :=
  ⟨fun _ => rfl,
    ⟨{ ops0 with src0 := 1024, dst := 992 }, rfl, by decide⟩,
    ⟨{ ops0 with src0 := 0xFFFFFFFF, len0 := 2 }, rfl, by decide⟩,
    ⟨{ ops0 with len0 := 4, dst := 993 }, rfl, by decide⟩⟩

/-- The largest operands in range; each region in turn one byte too far. -/
theorem witness_HmacSha256WritesMac :
    (∀ o, (inFlight 4 o []).latch.cmd = 4) ∧
    (∃ o, (inFlight 4 o []).latch.ops = o ∧ o.src0.toNat + o.len0.toNat ≤ 1024 ∧ o.src1.toNat + o.len1.toNat ≤ 1024 ∧ o.dst.toNat + 32 ≤ 1024) ∧
    (∃ o, (inFlight 4 o []).latch.ops = o ∧ 1024 < o.src0.toNat + o.len0.toNat) ∧
    (∃ o, (inFlight 4 o []).latch.ops = o ∧ o.src0.toNat + o.len0.toNat ≤ 1024 ∧ 1024 < o.src1.toNat + o.len1.toNat) ∧
    (∃ o, (inFlight 4 o []).latch.ops = o ∧ o.src0.toNat + o.len0.toNat ≤ 1024 ∧ o.src1.toNat + o.len1.toNat ≤ 1024 ∧ 1024 < o.dst.toNat + 32) :=
  ⟨fun _ => rfl,
    ⟨{ ops0 with len0 := 1024, src1 := 1000, len1 := 24, dst := 992 }, rfl, by decide⟩,
    ⟨{ ops0 with len0 := 1025 }, rfl, by decide⟩,
    ⟨{ ops0 with src1 := 1000, len1 := 25 }, rfl, by decide⟩,
    ⟨{ ops0 with dst := 993 }, rfl, by decide⟩⟩

/-- One byte at the end of DBUF (K-8); then each check failing alone. -/
theorem witness_Pbkdf2Sha256WritesDerivedKey :
    (∀ o, (inFlight 5 o []).latch.cmd = 5) ∧
    (∃ o, (inFlight 5 o []).latch.ops = o ∧ 1 ≤ o.len2.toNat ∧ 1 ≤ o.iter.toNat ∧ o.src0.toNat + o.len0.toNat ≤ 1024 ∧ o.src1.toNat + o.len1.toNat ≤ 1024 ∧ o.dst.toNat + o.len2.toNat ≤ 1024) ∧
    (∃ o, (inFlight 5 o []).latch.ops = o ∧ o.len2.toNat = 0) ∧
    (∃ o, (inFlight 5 o []).latch.ops = o ∧ 1 ≤ o.len2.toNat ∧ o.iter.toNat = 0) ∧
    (∃ o, (inFlight 5 o []).latch.ops = o ∧ 1 ≤ o.len2.toNat ∧ 1 ≤ o.iter.toNat ∧ 1024 < o.src0.toNat + o.len0.toNat) ∧
    (∃ o, (inFlight 5 o []).latch.ops = o ∧ 1 ≤ o.len2.toNat ∧ 1 ≤ o.iter.toNat ∧ o.src0.toNat + o.len0.toNat ≤ 1024 ∧ 1024 < o.src1.toNat + o.len1.toNat) ∧
    (∃ o, (inFlight 5 o []).latch.ops = o ∧ 1 ≤ o.len2.toNat ∧ 1 ≤ o.iter.toNat ∧ o.src0.toNat + o.len0.toNat ≤ 1024 ∧ o.src1.toNat + o.len1.toNat ≤ 1024 ∧
      1024 < o.dst.toNat + o.len2.toNat) :=
  ⟨fun _ => rfl,
    ⟨{ ops0 with len2 := 1, iter := 1, dst := 1023 }, rfl, by decide⟩,
    ⟨ops0, rfl, by decide⟩,
    ⟨{ ops0 with len2 := 1 }, rfl, by decide⟩,
    ⟨{ ops0 with len2 := 1, iter := 1, len0 := 1025 }, rfl, by decide⟩,
    ⟨{ ops0 with len2 := 1, iter := 1, len1 := 1025 }, rfl, by decide⟩,
    ⟨{ ops0 with len2 := 32, iter := 1, dst := 993 }, rfl, by decide⟩⟩

/-- The last offsets in range and the first out of it. -/
theorem witness_Salsa208WritesPermutedSubBlock :
    (∀ o, (inFlight 6 o []).latch.cmd = 6) ∧
    (∃ o, (inFlight 6 o []).latch.ops = o ∧ o.src0.toNat + 64 ≤ 1024 ∧ o.dst.toNat + 64 ≤ 1024) ∧
    (∃ o, (inFlight 6 o []).latch.ops = o ∧ 1024 < o.src0.toNat + 64) ∧
    (∃ o, (inFlight 6 o []).latch.ops = o ∧ o.src0.toNat + 64 ≤ 1024 ∧ 1024 < o.dst.toNat + 64) :=
  ⟨fun _ => rfl,
    ⟨{ ops0 with src0 := 960, dst := 960 }, rfl, by decide⟩,
    ⟨{ ops0 with src0 := 961 }, rfl, by decide⟩,
    ⟨{ ops0 with dst := 961 }, rfl, by decide⟩⟩

/-- The last offsets in range and the first out of it. -/
theorem witness_BlockmixWritesMixedBlock :
    (∀ o, (inFlight 7 o []).latch.cmd = 7) ∧
    (∃ o, (inFlight 7 o []).latch.ops = o ∧ o.src0.toNat + 128 ≤ 1024 ∧ o.dst.toNat + 128 ≤ 1024) ∧
    (∃ o, (inFlight 7 o []).latch.ops = o ∧ 1024 < o.src0.toNat + 128) ∧
    (∃ o, (inFlight 7 o []).latch.ops = o ∧ o.src0.toNat + 128 ≤ 1024 ∧ 1024 < o.dst.toNat + 128) :=
  ⟨fun _ => rfl,
    ⟨{ ops0 with src0 := 896, dst := 896 }, rfl, by decide⟩,
    ⟨{ ops0 with src0 := 897 }, rfl, by decide⟩,
    ⟨{ ops0 with dst := 897 }, rfl, by decide⟩⟩

/-- As for BLOCKMIX, and a build without a scratchpad. -/
theorem witness_RomixWritesMixedBlock :
    (∀ o, (inFlight 8 o []).latch.cmd = 8) ∧
    (∃ o, (inFlight 8 o []).latch.ops = o ∧ o.src0.toNat + 128 ≤ 1024 ∧ o.dst.toNat + 128 ≤ 1024 ∧
      131072 ≤ (inFlight 8 o []).build.scratchAvail) ∧
    (∃ o, (inFlight 8 o []).latch.ops = o ∧ 1024 < o.src0.toNat + 128) ∧
    (∃ o, (inFlight 8 o []).latch.ops = o ∧ o.src0.toNat + 128 ≤ 1024 ∧ 1024 < o.dst.toNat + 128) ∧
    (∃ o, (inFlight 8 o []).latch.ops = o ∧ o.src0.toNat + 128 ≤ 1024 ∧ o.dst.toNat + 128 ≤ 1024 ∧
      (onBuild (inFlight 8 o []) true 131071).build.scratchAvail < 131072) :=
  ⟨fun _ => rfl,
    ⟨{ ops0 with src0 := 896, dst := 896 }, rfl, by decide⟩,
    ⟨{ ops0 with src0 := 897 }, rfl, by decide⟩,
    ⟨{ ops0 with dst := 897 }, rfl, by decide⟩,
    ⟨ops0, rfl, by decide⟩⟩

/-- The last offsets in range; then each check failing alone. -/
theorem witness_ScryptWritesDigest :
    (∀ o, (inFlight 9 o []).latch.cmd = 9) ∧
    (∃ o, (inFlight 9 o []).latch.ops = o ∧ o.len0.toNat = 80 ∧ o.len2.toNat = 32 ∧ o.src0.toNat + 80 ≤ 1024 ∧ o.dst.toNat + 32 ≤ 1024 ∧
      131072 ≤ (inFlight 9 o []).build.scratchAvail) ∧
    (∃ o, (inFlight 9 o []).latch.ops = o ∧ o.len0.toNat ≠ 80) ∧
    (∃ o, (inFlight 9 o []).latch.ops = o ∧ o.len0.toNat = 80 ∧ o.len2.toNat ≠ 32) ∧
    (∃ o, (inFlight 9 o []).latch.ops = o ∧ o.len0.toNat = 80 ∧ o.len2.toNat = 32 ∧ 1024 < o.src0.toNat + 80) ∧
    (∃ o, (inFlight 9 o []).latch.ops = o ∧ o.len0.toNat = 80 ∧ o.len2.toNat = 32 ∧ o.src0.toNat + 80 ≤ 1024 ∧ 1024 < o.dst.toNat + 32) ∧
    (∃ o, (inFlight 9 o []).latch.ops = o ∧ o.len0.toNat = 80 ∧ o.len2.toNat = 32 ∧ o.src0.toNat + 80 ≤ 1024 ∧ o.dst.toNat + 32 ≤ 1024 ∧
      (onBuild (inFlight 9 o []) true 0).build.scratchAvail < 131072) :=
  ⟨fun _ => rfl,
    ⟨{ ops0 with len0 := 80, len2 := 32, src0 := 944, dst := 992 }, rfl, by decide⟩,
    ⟨{ ops0 with len0 := 79 }, rfl, by decide⟩,
    ⟨{ ops0 with len0 := 80, len2 := 31 }, rfl, by decide⟩,
    ⟨{ ops0 with len0 := 80, len2 := 32, src0 := 945 }, rfl, by decide⟩,
    ⟨{ ops0 with len0 := 80, len2 := 32, dst := 993 }, rfl, by decide⟩,
    ⟨{ ops0 with len0 := 80, len2 := 32 }, rfl, by decide⟩⟩

/-- A refused SCRYPT, and an illegal word. -/
theorem witness_FailedCommandChangesNothingElse :
    (∃ t, exec .scrypt (inFlight 9 { ops0 with len0 := 79 } []) = .next t ∧ t.status.err ≠ .ok) ∧
    (∃ t, (inFlight 0x0B ops0 []).complete = .next t ∧ t.status.err ≠ .ok) :=
  ⟨⟨next! (step (inFlight 9 { ops0 with len0 := 79 } [])), rfl, by decide⟩, _, rfl, by decide⟩

/-- One error of each code. -/
theorem witness_ErrorCodesRaisedBy :
    (∃ t, exec .scrypt (inFlight 9 { ops0 with len0 := 79 } []) = .next t ∧ t.status.err = .inLen) ∧
    (∃ t, exec .pbkdf2Sha256 (inFlight 5 ops0 []) = .next t ∧ t.status.err = .outLen) ∧
    (∃ t, exec .pbkdf2Sha256 (inFlight 5 { ops0 with len2 := 32 } []) = .next t ∧ t.status.err = .param) ∧
    (∃ t, exec .blockmix (inFlight 7 { ops0 with src0 := 897 } []) = .next t ∧ t.status.err = .range) ∧
    (∃ t, exec .romix (onBuild (inFlight 8 ops0 []) true 0) = .next t ∧ t.status.err = .alloc) :=
  ⟨⟨_, rfl, rfl⟩, ⟨_, rfl, rfl⟩, ⟨_, rfl, rfl⟩, ⟨_, rfl, rfl⟩,
    ⟨_, (exec_romix _).trans (finish_of_fail (c := (onBuild (inFlight 8 ops0 []) true 0).checkScratch)
      (by decide) _ _), rfl⟩⟩

theorem witness_PaddingFillsWholeBlocks :
    (List.replicate 55 (0 : Byte)).length ≤ 55 ∧ 56 ≤ (List.replicate 56 (0 : Byte)).length ∧
    (List.replicate 119 (0 : Byte)).length ≤ 119 := by simp

theorem witness_HmacKeyPaddingAndHashing :
    ([] : Bytes).length + 64 ≤ 64 ∧ (List.replicate 64 (0 : Byte)).length + 0 ≤ 64 ∧
    64 < (List.replicate 65 (0 : Byte)).length := by simp

theorem witness_Pbkdf2TruncatesToPrefix : 20 ≤ 32 ∧ 33 ≤ 64 := by decide

theorem witness_BlockMixIsGeneralFormAtROne : (List.replicate 128 (0 : Byte)).length = 128 := by simp

theorem witness_IntegerifyReadsTenBits : (List.replicate 128 (0xFF : Byte)).length = 128 := by simp

theorem witness_FillPhaseTable : 0 < 1024 ∧ 1023 < 1024 := by decide

/-- The input at 0, the block at 80, the two digests at the end of DBUF. -/
theorem witness_ScryptIsItsThreePasses :
    131072 ≤ State.reset.build.scratchAvail ∧ (0 : Word).toNat + 80 ≤ 1024 ∧ (80 : Word).toNat + 128 ≤ 1024 ∧
    (992 : Word).toNat + 32 ≤ 1024 ∧ (0 : Word).toNat + 80 ≤ (80 : Word).toNat := by decide

/-- The empty message: its padding is one block. -/
theorem witness_BlockByBlockHashIsTheDigest :
    (pad []).length ≤ 1024 ∧ (State.reset.memWrite 0 (pad [])).memRead 0 (pad []).length = pad [] := by
  decide +kernel

theorem witness_BranchFollowsMaskedComparison :
    (⟨[.label 4], 0, [(2, 0x102)], false⟩ : HostAgent).var? 2 = some 0x102 ∧ (0x102 : Word) &&& 0xF00 = 0x100 ∧
    (0x102 : Word) &&& 0xF00 ≠ 0 ∧ labelIndex? [.label 4] 4 = some 0 ∧ labelIndex? [.label 4] 5 = none ∧
    (⟨[], 0, [], false⟩ : HostAgent).var? 2 = none := by decide

theorem witness_WellFormedProgramNeverBranchesAstray :
    branchesDeclared (hostRuns State.reset (assemble [.wait 7 0])).host.prog = true ∧
    programWf (assemble [.wait 7 0]) = true := by decide

/-- The last offset of the window and the first past it, written and read. -/
theorem witness_OnlyWindowOffsetsReachTheCore :
    (hostRuns State.reset [.write .b8 0x800 1]).nextTurn = .host ∧
    (hostRuns State.reset [.write .b8 0x800 1]).hostStmt? = some (.write .b8 0x800 1) ∧ 2048 ≤ 0x800 ∧
    (hostRuns State.reset [.read .b8 0x7FF 3]).nextTurn = .host ∧
    (hostRuns State.reset [.read .b8 0x7FF 3]).hostStmt? = some (.read .b8 0x7FF 3) ∧
    (0x7FF : Offset).toNat = 0x7FF ∧
    (hostRuns State.reset [.read .b32 0x800 3]).hostStmt? = some (.read .b32 0x800 3) ∧
    (hostRuns State.reset [.write .b32 0x7FC 3]).hostStmt? = some (.write .b32 0x7FC 3) := by decide

/-- The state after reset at position `pc` of a host program, the host moving `n` times, then the core. -/
def hostAtLine (prog : List Stmt) (pc n : Nat) : State :=
  { State.reset with host := ⟨prog, pc, [], false⟩, sched := List.replicate n .host ++ [.core] }

/-- SCRYPT as the second line of a program of three. -/
theorem witness_CommandLinesIssueTheirCommand :
    let s := hostAtLine (expandLine .ack ++ expandLine (.scrypt 0 0x80) ++ expandLine (.wait 7 0)) 1 5
    lineCommand? (.scrypt 0 0x80) = some .scrypt ∧ s.status.busy = false ∧
    s.host.prog = expandLine .ack ++ expandLine (.scrypt 0 0x80) ++ expandLine (.wait 7 0) ∧
    s.host.pc = (expandLine .ack).length ∧
    s.sched = List.replicate (expandLine (.scrypt 0 0x80)).length .host ++ [.core] := by decide

/-- LOAD as the second line, across the end of DBUF: byte 0 of the string lands at 1023, byte 1 outside. -/
theorem witness_LoadStoresItsBytes :
    let s := hostAtLine (expandLine .ack ++ expandLine (.load 1023 [0xAB, 0xCD]) ++ expandLine .nop) 1 2
    s.status.busy = false ∧
    s.host.prog = expandLine .ack ++ expandLine (.load 1023 [0xAB, 0xCD]) ++ expandLine .nop ∧
    s.host.pc = (expandLine .ack).length ∧
    s.sched = List.replicate ([0xAB, 0xCD] : Bytes).length .host ++ [.core] ∧
    0 < ([0xAB, 0xCD] : Bytes).length ∧ 1023 + 0 < 1024 ∧ 1024 ≤ 1023 + 1 := by decide

/-- DUMP as the second line, at the end of DBUF. -/
theorem witness_DumpReadsItsBytes :
    let s := hostAtLine (expandLine .ack ++ expandLine (.dump 1022 2 5) ++ expandLine .nop) 1 2
    s.status.busy = false ∧
    s.host.prog = expandLine .ack ++ expandLine (.dump 1022 2 5) ++ expandLine .nop ∧
    s.host.pc = (expandLine .ack).length ∧ s.sched = List.replicate 2 .host ++ [.core] ∧
    1 < 2 ∧ 1022 + 1 < 1024 ∧ 1022 + 2 ≤ 1024 := by decide

end Sys2Proof.Tests
end

section
/-! PROOF. No step changes the build or the platform: one equation per operation, then the branches of a step. -/

namespace Sys2Proof.Machine

/-- The parameters of a state: those of its build and those of its platform (logs 7, 15). -/
def State.parameters (s : State) : Build × Platform := (s.build, s.platform)

theorem parameters_eq_iff {s t : State} :
    t.parameters = s.parameters ↔ t.build = s.build ∧ t.platform = s.platform := Prod.mk_inj

/-! ## Operations -/

section
variable (s : State)

@[simp] theorem popTurn_parameters : s.popTurn.parameters = s.parameters := rfl
@[simp] theorem resetEvent_parameters : s.resetEvent.parameters = s.parameters := rfl
@[simp] theorem raiseError_parameters (c : ErrCode) (f : ErrField) :
    (s.raiseError c f).parameters = s.parameters := rfl
@[simp] theorem completeOk_parameters (p : Bool) : (s.completeOk p).parameters = s.parameters := rfl
@[simp] theorem committed_parameters (h : Vector Word 8) (cap : Cap) (a : Nat) (v : Bytes) (w : Scratch) :
    (committed s h cap a v w).parameters = s.parameters := rfl
@[simp] theorem hostAt_parameters (pc : Nat) : (s.hostAt pc).parameters = s.parameters := rfl
@[simp] theorem hostNext_parameters : s.hostNext.parameters = s.parameters := rfl
@[simp] theorem setVar_parameters (x : Var) (v : Word) : (s.setVar x v).parameters = s.parameters := rfl

/-! ## Host accesses -/

@[simp] theorem noteBusFault_parameters (size : Size) (off : Offset) :
    (s.noteBusFault size off).parameters = s.parameters := by
  obtain ⟨b, e⟩ := noteBusFault_eq s size off
  rw [e]; rfl

@[simp] theorem writeCsr_parameters (off : Offset) (v : Word) :
    (s.writeCsr off v).parameters = s.parameters := by
  rcases writeCsr_cases s off v with
    e | ⟨-, e⟩ | ⟨-, e⟩ | ⟨-, -, e⟩ | ⟨-, -, e⟩ | ⟨r, -, e⟩ <;> rw [e] <;> rfl

@[simp] theorem hostWrite_parameters (size : Size) (off : Offset) (v : Word) :
    (s.hostWrite size off v).parameters = s.parameters := by
  rcases hostWrite_cases s size off v with ⟨-, e⟩ | ⟨-, -, -, e⟩ | ⟨-, e⟩ | ⟨-, a, bs, -, e⟩ <;> rw [e]
  · rfl
  · exact writeCsr_parameters s off v
  · rfl
  · rfl

@[simp] theorem hostRead_parameters (size : Size) (off : Offset) :
    (s.hostRead size off).1.parameters = s.parameters := by
  rcases hostRead_cases s size off with ⟨-, e⟩ | ⟨-, e | ⟨-, -, n, e⟩⟩ <;> rw [e] <;> rfl

@[simp] theorem busWrite_parameters (size : Size) (off : Nat) (v : Word) :
    (s.busWrite size off v).parameters = s.parameters := by
  rcases busWrite_cases s size off v with ⟨o, -, e⟩ | ⟨-, e⟩ <;> simp [e]

@[simp] theorem busRead_parameters (size : Size) (off : Nat) :
    (s.busRead size off).1.parameters = s.parameters := by
  rcases busRead_cases s size off with ⟨o, -, e⟩ | ⟨-, e⟩
  · simp [e]
  · rw [e]; rfl

end

/-! ## Steps -/

theorem runStmt_keeps_parameters {s t : State} {st : Stmt} (h : s.runStmt st = .next t) :
    t.parameters = s.parameters := by
  rcases runStmt_cases h with ⟨size, off, v, -, rfl⟩ | ⟨size, off, x, -, rfl⟩ | ⟨-, pc, rfl⟩ <;> simp

theorem step_keeps_parameters {s t : State} (h : step s = .next t) : t.parameters = s.parameters := by
  rcases step_cases h with ⟨-, rfl⟩ | ⟨-, -, rfl⟩ | ⟨-, -, hcomplete⟩ | ⟨-, hhost⟩
  · simp
  · simp
  · rcases hcomplete with ⟨c, f, -, -, rfl⟩ | ⟨i, h', cap, a, v, w, p, -, -, rfl⟩ <;> simp
  · rcases hhost with ⟨-, rfl⟩ | ⟨st, -, hrun⟩
    · simp
    · simpa using runStmt_keeps_parameters hrun

/-- Settles O12, by the branches of a step (`step_cases`). -/
theorem everyStepKeepsParameters : Obligations.EveryStepKeepsParameters :=
  fun _ _ h => parameters_eq_iff.1 (step_keeps_parameters h)

end Sys2Proof.Machine
end

section
/-! PROOF. A word decodes to a command exactly when it is that command's word (30_encoding.md R69), and what a step
does with it. -/

namespace Sys2Proof.Machine

/-! ## Decoding -/

/-- With RSV = 0 the word is its OP field. -/
theorem opField_toNat_of_rsv {w : Word} (h : rsvField w = 0) : (opField w).toNat = w.toNat := by
  have hrsv : w.toNat / 256 % 2 ^ 24 = 0 := by
    simpa [rsvField, BitVec.extractLsb'_toNat, Nat.shiftRight_eq_div_pow] using congrArg BitVec.toNat h
  have hw := w.isLt
  simp only [opField, BitVec.extractLsb'_toNat, Nat.shiftRight_zero]
  omega

theorem encode_toNat_of_opcodeCommand {op : Nat} {i : Instr} (h : opcodeCommand op = some i) :
    (encode i).toNat = op := by
  simp only [opcodeCommand] at h
  split at h <;> cases h <;> rfl

theorem decode_encode (i : Instr) : decode (encode i) = .ok i := by cases i <;> rfl

/-- A word that decodes to a command is the word of that command. -/
theorem eq_encode_of_decode {w : Word} {i : Instr} (h : decode w = .ok i) : w = encode i := by
  simp only [decode] at h
  split_ifs at h with hrsv
  split at h
  · next j hop =>
    cases h
    exact BitVec.eq_of_toNat_eq ((opField_toNat_of_rsv hrsv).symm.trans (encode_toNat_of_opcodeCommand hop).symm)
  · cases h

/-- A table row of 32 bits is read as its word is decoded. -/
theorem decodeTableWord_of_decode {w : Word} {i : Instr} (h : decode w = .ok i) :
    decodeTableWord 32 w.toNat = some i := by
  have hw : w.toNat % 2 ^ 32 = w.toNat := Nat.mod_eq_of_lt w.isLt
  simp only [decodeTableWord, hw, w.isLt, if_true, BitVec.ofNat_toNat, BitVec.setWidth_eq, h]

/-! ## Steps -/

theorem complete_of_decode {s : State} {i : Instr} (h : decode s.latch.cmd = .ok i) : s.complete = exec i s := by
  simp only [State.complete, h]

/-- The core's turn with a legal command in flight runs that command (10_state.md R39; 30_encoding.md R68). -/
theorem step_of_decode {s : State} {i : Instr} (hb : s.status.busy = true) (hd : decode s.latch.cmd = .ok i)
    (ht : s.nextTurn = .core) : step s = exec i s.popTurn := by
  rw [step_core ht, coreStep_of_busy (s := s.popTurn) hb, complete_of_decode (s := s.popTurn) hd]

theorem nextTurn_placeCommand (s : State) (w : Word) : (s.placeCommand w).nextTurn = .core := by
  unfold State.nextTurn State.placeCommand
  cases s.sched <;> rfl

/-- The turn that placing a command adds is the one its step takes (log 8). -/
theorem popTurn_placeCommand (s : State) (w : Word) : (s.placeCommand w).popTurn = s.issue w := by
  have hsched : (s.placeCommand w).sched.tail = s.sched := by
    unfold State.placeCommand
    cases s.sched <;> rfl
  show { s.issue w with sched := (s.placeCommand w).sched.tail } = s.issue w
  rw [hsched]; rfl

theorem withFetchWord_toNat (s : State) (w : Word) : s.withFetchWord 32 w.toNat = s.placeCommand w := by
  rw [State.withFetchWord, Nat.mod_eq_of_lt w.isLt, BitVec.ofNat_toNat, BitVec.setWidth_eq]

theorem step_placeCommand {s : State} {w : Word} {i : Instr} (h : decode w = .ok i) :
    step (s.placeCommand w) = exec i (s.issue w) := by
  have hb : (s.placeCommand w).status.busy = true := rfl
  have hd : decode (s.placeCommand w).latch.cmd = .ok i := h
  rw [step_of_decode hb hd (nextTurn_placeCommand s w), popTurn_placeCommand]

/-- Settles O4: the core's turn runs the decoded word, and so the word just placed. -/
theorem stepRunsDecodedCommand : Obligations.StepRunsDecodedCommand :=
  ⟨fun _ _ => step_of_decode,
    fun s i => by rw [withFetchWord_toNat, step_placeCommand (decode_encode i)],
    fun i => decodeTableWord_of_decode (decode_encode i)⟩

/-- A host whose program has ended takes no step (log 2). -/
theorem step_host_ended {s : State} (h : s.nextTurn = .host) (hs : s.hostStmt? = none) :
    step s = .next s.popTurn := by
  have e : s.popTurn.hostStmt? = none := hs
  rw [step, h]
  simp only [State.takeTurn, State.hostStep, e]

/-- Settles O5: the turns of an idle core and of a finished host. -/
theorem idleAgentsChangeNothing : Obligations.IdleAgentsChangeNothing :=
  ⟨fun s idle turn => by rw [step_core turn, coreStep_of_idle (s := s.popTurn) idle],
    fun _ ended turn => step_host_ended turn ended⟩

end Sys2Proof.Machine
end

section
/-! PROOF. What one turn of the host can do to the core, said once as an inductive relation, and the branches of a
step in its terms (30_encoding.md R74; 20_memory.md R49 to R61). -/

namespace Sys2Proof.Machine

/-- The effects that a turn of the host with next statement `st?` can have on the state, the host's own data and
the count of draws apart. -/
inductive HostEffect (s : State) (st? : Option Stmt) : State → Prop
  /-- No access, a read, or a write that is ignored (10_state.md R19; 20_memory.md R56, R57). -/
  | nothing : HostEffect s st? s
  /-- An unsupported access (20_memory.md R54). -/
  | busError : HostEffect s st? s.busError
  /-- A DBUF write while BUSY = 1 (20_memory.md R61). -/
  | dbufDropped (busy : s.status.busy = true) :
      HostEffect s st? { s with status := { s.status with busyAcc := true } }
  /-- A DBUF write while BUSY = 0 (20_memory.md R50). -/
  | dbufStored (a : Nat) (bs : Bytes) (idle : s.status.busy = false) (inDbuf : a + bs.length ≤ 1024) :
      HostEffect s st? (s.memWrite a bs)
  /-- A CTRL write (10_state.md R24). -/
  | ctrl (v : Word) : HostEffect s st? { s with ctrl := ctrlOfWord v }
  /-- A STATUS write (10_state.md R26). -/
  | status (v : Word) (wr : st? = some (.write .b32 0x014 v)) :
      HostEffect s st? { s with status := s.status.written v }
  /-- A CMD write while BUSY = 1 (10_state.md R27). -/
  | overrun (busy : s.status.busy = true) :
      HostEffect s st? { s with status := { s.status with overrun := true } }
  /-- A CMD write while BUSY = 0 (10_state.md R38). -/
  | issue (v : Word) (wr : st? = some (.write .b32 0x018 v)) (idle : s.status.busy = false) :
      HostEffect s st? (s.issue v)
  /-- An operand register write (10_state.md R29). -/
  | operand (r : OpReg) (v : Word) : HostEffect s st? { s with ops := s.ops.set r v }

theorem writeCsr_hostEffect (s : State) (off : Offset) (v : Word) :
    HostEffect s (some (.write .b32 off.toNat v)) (s.writeCsr off v) := by
  rcases writeCsr_cases s off v with
    e | ⟨-, e⟩ | ⟨rfl, e⟩ | ⟨-, busy, e⟩ | ⟨rfl, idle, e⟩ | ⟨r, -, e⟩ <;> rw [e]
  · exact .nothing
  · exact .ctrl v
  · exact .status v rfl
  · exact .overrun busy
  · exact .issue v rfl idle
  · exact .operand r v

theorem hostWrite_hostEffect (s : State) (size : Size) (off : Offset) (v : Word) :
    HostEffect s (some (.write size off.toNat v)) (s.hostWrite size off v) := by
  rcases hostWrite_cases s size off v with
    ⟨-, e⟩ | ⟨rfl, -, -, e⟩ | ⟨busy, e⟩ | ⟨idle, a, bs, inDbuf, e⟩ <;> rw [e]
  · exact .busError
  · exact writeCsr_hostEffect s off v
  · exact .dbufDropped busy
  · exact .dbufStored a bs idle inDbuf

/-! ## The host's own data -/

/-- The state with the host's own data, and the count of the values it has drawn, replaced. -/
def State.withHost (s : State) (host : HostAgent) (draws : Nat) : State :=
  { s with host := host, draws := draws }

theorem hostEffect_host {s u : State} {st? : Option Stmt} (h : HostEffect s st? u) : u.host = s.host := by
  cases h <;> rfl

/-- The variables of the host after a turn: kept, or one of them given a value. -/
def VarsUpdate (vars vars' : List (Nat × Word)) : Prop := vars' = vars ∨ ∃ x v, vars' = storeSet vars x v

theorem varsUpdate_sorted {vars vars' : List (Nat × Word)} (h : VarsUpdate vars vars')
    (hs : storeSorted vars = true) : storeSorted vars' = true := by
  rcases h with rfl | ⟨x, v, rfl⟩
  · exact hs
  · exact storeSorted_set x v hs

/-- The platform's note of a bus error changes no variable. -/
theorem noteBusFault_eq_withHost (s : State) (size : Size) (off : Offset) :
    ∃ host, host.vars = s.host.vars ∧ s.noteBusFault size off = s.withHost host s.draws := by
  obtain ⟨b, e⟩ := noteBusFault_eq s size off
  exact ⟨{ s.host with busFault := b }, rfl, e⟩

theorem busWrite_hostEffect (s : State) (size : Size) (off : Nat) (v : Word) :
    ∃ u host, HostEffect s (some (.write size off v)) u ∧ host.vars = s.host.vars ∧
      s.busWrite size off v = u.withHost host u.draws := by
  rcases busWrite_cases s size off v with ⟨o, rfl, e⟩ | ⟨-, e⟩
  · have effect := hostWrite_hostEffect s size o v
    obtain ⟨host, hvars, e'⟩ := noteBusFault_eq_withHost (s.hostWrite size o v) size o
    exact ⟨_, host, effect, by rw [hvars, hostEffect_host effect], e.trans e'⟩
  · exact ⟨s, s.host, .nothing, rfl, e⟩

theorem hostRead_hostEffect (s : State) (size : Size) (off : Offset) (st? : Option Stmt) :
    ∃ u draws, HostEffect s st? u ∧ (s.hostRead size off).1 = u.withHost s.host draws := by
  rcases hostRead_cases s size off with ⟨-, e⟩ | ⟨-, e | ⟨-, -, n, e⟩⟩ <;> rw [e]
  · exact ⟨_, s.draws, .busError, rfl⟩
  · exact ⟨_, s.draws, .nothing, rfl⟩
  · exact ⟨_, s.draws + n, .nothing, rfl⟩

theorem busRead_hostEffect (s : State) (size : Size) (off : Nat) (st? : Option Stmt) :
    ∃ u host draws, HostEffect s st? u ∧ host.vars = s.host.vars ∧
      (s.busRead size off).1 = u.withHost host draws := by
  rcases busRead_cases s size off with ⟨o, -, e⟩ | ⟨-, e⟩
  · obtain ⟨u, draws, effect, eread⟩ := hostRead_hostEffect s size o st?
    obtain ⟨host, hvars, enote⟩ := noteBusFault_eq_withHost (s.hostRead size o).1 size o
    rw [eread] at hvars
    exact ⟨u, host, draws, effect, hvars, by rw [e, enote, eread]; rfl⟩
  · exact ⟨s, s.host, s.draws + 1, .nothing, rfl, e⟩

/-- A host statement that goes on has one of the effects on the core, and sets at most one variable. -/
theorem runStmt_hostEffect {s t : State} {st : Stmt} (h : s.runStmt st = .next t) :
    ∃ u host draws, HostEffect s (some st) u ∧ VarsUpdate s.host.vars host.vars ∧ t = u.withHost host draws := by
  rcases runStmt_cases h with ⟨size, off, v, rfl, rfl⟩ | ⟨size, off, x, rfl, rfl⟩ | ⟨-, pc, rfl⟩
  · obtain ⟨u, host, effect, hvars, e⟩ := busWrite_hostEffect s size off v
    exact ⟨u, { host with pc := host.pc + 1 }, u.draws, effect, .inl hvars, by rw [e]; rfl⟩
  · obtain ⟨u, host, draws, effect, hvars, e⟩ := busRead_hostEffect s size off (some (.read size off x))
    refine ⟨u, { host with pc := host.pc + 1, vars := storeSet host.vars x (s.busRead size off).2 }, draws,
      effect, .inr ⟨x, (s.busRead size off).2, by rw [← hvars]⟩, ?_⟩
    rw [e]; rfl
  · exact ⟨s, { s.host with pc := pc }, s.draws, .nothing, .inl rfl, rfl⟩

/-! ## Steps -/

/-- How the core completes the command in flight: with an error, or with its commit block (10_state.md R39). -/
inductive Completion (s : State) : State → Prop
  | error (c : ErrCode) (f : ErrField) (hc : c ≠ .ok) (hf : f ≠ .none) : Completion s (s.raiseError c f)
  | ok {i : Instr} {h : Vector Word 8} {cap : Cap} {a : Nat} {v : Bytes} {w : Scratch} {p : Bool}
      (hd : decode s.latch.cmd = .ok i) (hc : Commits i s h cap a v w p) :
      Completion s ((committed s h cap a v w).completeOk p)

theorem complete_completion {s t : State} (h : s.complete = .next t) : Completion s t := by
  rcases complete_cases s with ⟨c, f, hc, hf, e⟩ | ⟨i, h', cap, a, v, w, p, hd, hc, e⟩ <;>
    cases e.symm.trans h
  · exact .error c f hc hf
  · exact .ok hd hc

/-- The four kinds of step: a reset, an idle core, a completion, and a turn of the host. -/
inductive StepEffect (s : State) : State → Prop
  | reset (turn : s.nextTurn = .reset) : StepEffect s s.popTurn.resetEvent
  | idle (turn : s.nextTurn = .core) (idle : s.status.busy = false) : StepEffect s s.popTurn
  | complete {t : State} (turn : s.nextTurn = .core) (busy : s.status.busy = true)
      (done : Completion s.popTurn t) : StepEffect s t
  | host {u : State} {host : HostAgent} {draws : Nat} (turn : s.nextTurn = .host)
      (effect : HostEffect s.popTurn s.hostStmt? u) (vars : VarsUpdate s.host.vars host.vars) :
      StepEffect s (u.withHost host draws)

theorem step_stepEffect {s t : State} (h : step s = .next t) : StepEffect s t := by
  rcases step_cases h with
    ⟨turn, rfl⟩ | ⟨turn, idle, rfl⟩ | ⟨turn, busy, hcomplete⟩ | ⟨turn, hhost⟩
  · exact .reset turn
  · exact .idle turn idle
  · refine .complete turn busy ?_
    rcases hcomplete with ⟨c, f, hc, hf, rfl⟩ | ⟨i, h', cap, a, v, w, p, hd, hc, rfl⟩
    · exact .error c f hc hf
    · exact .ok hd hc
  · rcases hhost with ⟨-, rfl⟩ | ⟨st, hst, hrun⟩
    · exact .host (u := s.popTurn) (host := s.host) (draws := s.draws) turn .nothing (.inl rfl)
    · obtain ⟨u, host, draws, effect, hvars, rfl⟩ := runStmt_hostEffect hrun
      exact .host turn (hst ▸ effect) hvars

end Sys2Proof.Machine
end

section
/-! PROOF. The invariant holds after reset and every step keeps it: one lemma per kind of step. -/

namespace Sys2Proof.Machine

theorem inv_resetWith (build : Build) (platform : Platform) (resets draws : Nat) {host : HostAgent}
    (sched : List Turn) (hv : storeSorted host.vars = true) :
    Inv (State.resetWith build platform resets draws host sched) where
  dbuf := memory_wf_nil
  scratch := scratch_wf_nil
  vars := hv
  capVec := fun h => h
  capBuild := nofun
  busyDone := nofun
  errDone := fun h => absurd rfl h
  errPath := fun h => absurd rfl h
  errField := fun h => absurd rfl h
  pathVec := fun h => h
  latchCmd := nofun

/-- Settles O10: the invariant holds after any reset, and so after the first. -/
theorem invariantHoldsAtReset : Obligations.InvariantHoldsAtReset := inv_resetWith _ _ _ _ _ rfl

theorem inv_popTurn {s : State} (hi : Inv s) : Inv s.popTurn := { hi with }

theorem inv_resetEvent {s : State} (hi : Inv s) : Inv s.resetEvent := inv_resetWith _ _ _ _ _ hi.vars

theorem inv_withHost {s : State} {host : HostAgent} (draws : Nat) (hi : Inv s)
    (hv : storeSorted host.vars = true) : Inv (s.withHost host draws) := { hi with vars := hv }

/-! ## A turn of the host -/

theorem inv_memWrite {s : State} {a : Nat} {bs : Bytes} (hi : Inv s) (h : a + bs.length ≤ 1024) :
    Inv (s.memWrite a bs) := { hi with dbuf := memory_wf_writeBytes hi.dbuf h }

/-- An issue signals nothing, clears ERR, and latches the word CMD reads back (10_state.md R38). -/
theorem inv_issue {s : State} (w : Word) (hi : Inv s) : Inv (s.issue w) :=
  { hi with
    busyDone := fun _ => rfl
    errDone := fun h => absurd rfl h
    errPath := fun h => absurd rfl h
    errField := fun h => absurd rfl h
    latchCmd := fun _ => rfl }

/-- ERR is still nonzero after a STATUS write only where it was before and DONE was not cleared with it
(10_state.md R26). -/
theorem status_written_err_ne {st : Status} {w : Word} (h : (st.written w).err ≠ .ok) :
    w.getLsbD 1 = false ∧ st.err ≠ .ok := by
  rw [status_written_err] at h
  split_ifs at h with hw
  · exact absurd rfl h
  · exact ⟨by simpa using hw, h⟩

theorem inv_statusWrite {s : State} (w : Word) (hi : Inv s) :
    Inv { s with status := s.status.written w } :=
  { hi with
    busyDone := fun h => by simp [hi.busyDone h]
    errDone := fun h => by
      obtain ⟨hw, he⟩ := status_written_err_ne h
      rw [status_written_done, hi.errDone he, hw]; rfl
    errPath := fun h => hi.errPath (status_written_err_ne h).2
    errField := fun h => hi.errField (status_written_err_ne h).2 }

theorem inv_hostEffect {s u : State} {st? : Option Stmt} (hi : Inv s) (h : HostEffect s st? u) : Inv u := by
  cases h with
  | nothing => exact hi
  | busError => exact { hi with }
  | dbufDropped _ => exact { hi with }
  | dbufStored a bs _ h => exact inv_memWrite hi h
  | ctrl v => exact { hi with }
  | status v _ => exact inv_statusWrite v hi
  | overrun _ => exact { hi with }
  | issue v _ _ => exact inv_issue v hi
  | operand r v => exact { hi with }

/-! ## A completion -/

theorem inv_raiseError {s : State} (c : ErrCode) {f : ErrField} (hf : f ≠ .none) (hi : Inv s) :
    Inv (s.raiseError c f) :=
  { hi with
    busyDone := nofun
    errDone := fun _ => rfl
    errPath := fun _ => rfl
    errField := fun _ => hf
    pathVec := nofun
    latchCmd := nofun }

/-- After Detect() CAP is detected and reports the build (10_state.md R40, R41). -/
theorem detect_cap_eq {s : State} (hi : Inv s) : s.detect.cap = ⟨true, s.build.vecPresent⟩ := by
  cases hd : s.cap.detected with
  | false => simp [hd]
  | true => simp only [detect_cap, hd, if_true, ← hi.capBuild hd]; rw [← hd]

theorem inv_detect {s : State} (hi : Inv s) : Inv s.detect :=
  { hi with
    capVec := fun _ => by rw [detect_cap_eq hi]
    capBuild := fun _ => by rw [detect_cap_eq hi]; rfl
    pathVec := fun h => by
      have hv := hi.pathVec h
      simp [hi.capVec hv, hv] }

/-- SelectPath() gives the vector datapath only where Detect() reports it (44_scrypt_dispatch.md R107). -/
theorem detect_vec_of_selectPath {s : State} (h : s.selectPath = true) : s.detect.cap.vec = true := by
  simp only [State.selectPath, Bool.and_eq_true] at h
  simp only [detect_cap]
  split_ifs at h ⊢ with hd <;> exact h.1

/-- The commit block of a command keeps the invariant where it writes what `Commits` admits. -/
theorem inv_committed {i : Instr} {s : State} {h : Vector Word 8} {cap : Cap} {a : Nat} {v : Bytes} {w : Scratch}
    {p : Bool} (hi : Inv s) (hc : Commits i s h cap a v w p) : Inv (committed s h cap a v w) := by
  have hdbuf := memory_wf_writeBytes hi.dbuf hc.inDbuf
  have hscratch := hc.keepsScratch hi.scratch
  rcases hc.keepsCap with rfl | rfl
  · exact { hi with dbuf := hdbuf, scratch := hscratch }
  · exact { inv_detect hi with dbuf := hdbuf, scratch := hscratch }

theorem inv_completeOk {s : State} {p : Bool} (hi : Inv s) (hp : p = true → s.cap.vec = true) :
    Inv (s.completeOk p) :=
  { hi with
    busyDone := nofun
    errDone := fun _ => rfl
    errPath := fun h => absurd rfl h
    errField := fun h => absurd rfl h
    pathVec := hp
    latchCmd := nofun }

theorem inv_completion {s t : State} (hi : Inv s) (h : Completion s t) : Inv t := by
  cases h with
  | error c f _ hf => exact inv_raiseError c hf hi
  | ok hd hc =>
    refine inv_completeOk (inv_committed hi hc) fun hp => ?_
    rcases hc.pathDetects with rfl | ⟨rfl, rfl⟩
    · cases hp
    · exact detect_vec_of_selectPath hp

/-! ## A step -/

theorem inv_step {s t : State} (hi : Inv s) (h : step s = .next t) : Inv t := by
  cases step_stepEffect h with
  | reset _ => exact inv_resetEvent (inv_popTurn hi)
  | idle _ _ => exact inv_popTurn hi
  | complete _ _ done => exact inv_completion (inv_popTurn hi) done
  | host _ effect vars =>
    exact inv_withHost _ (inv_hostEffect (inv_popTurn hi) effect) (varsUpdate_sorted vars hi.vars)

/-- Settles O11: each kind of step keeps the invariant. -/
theorem everyStepKeepsInvariant : Obligations.EveryStepKeepsInvariant := fun _ _ => inv_step

end Sys2Proof.Machine
end

section
/-! PROOF. The register window: what an access at a register's offset does, and the offsets that hold no register
(10_state.md R18, R19). -/

namespace Sys2Proof.Machine

/-! ## Accesses to the CSR half -/

theorem hostRead_csr (s : State) {off : Offset} (h4 : off.toNat % 4 = 0) (hc : off.toNat < 1024) :
    s.hostRead .b32 off = (s, s.readCsr off) := by
  rw [State.hostRead, if_pos ((legalAccess_b32 off).2 h4)]
  exact if_pos ((isCsr_eq_true off).2 hc)

theorem hostWrite_csr (s : State) {off : Offset} (v : Word) (h4 : off.toNat % 4 = 0) (hc : off.toNat < 1024) :
    s.hostWrite .b32 off v = s.writeCsr off v := by
  rw [State.hostWrite, if_pos ((legalAccess_b32 off).2 h4)]
  exact if_pos ((isCsr_eq_true off).2 hc)

/-- Every register lies on a word boundary below the first reserved range (10_state.md R18). -/
theorem regOffset_bounds (r : Reg) : (regOffset r).toNat % 4 = 0 ∧ (regOffset r).toNat < 0x060 := by
  cases r with
  | op r => cases r <;> decide
  | digest k => revert k; decide
  | _ => decide

/-- A 32-bit read at a register's offset reads that register and nothing else. -/
theorem hostRead_reg (s : State) (r : Reg) : s.hostRead .b32 (regOffset r) = (s, s.readReg r) := by
  obtain ⟨h4, hlt⟩ := regOffset_bounds r
  rw [hostRead_csr s h4 (by omega), State.readCsr, regAt_offset]

/-- A 32-bit write at a register's offset writes that register. -/
theorem hostWrite_reg (s : State) (r : Reg) (v : Word) : s.hostWrite .b32 (regOffset r) v = s.writeReg r v := by
  obtain ⟨h4, hlt⟩ := regOffset_bounds r
  rw [hostWrite_csr s v h4 (by omega), State.writeCsr, regAt_offset]

theorem regOffset_digest (k : Fin 8) : regOffset (.digest k) = BitVec.ofNat 11 (0x040 + 4 * k.val) := by
  revert k; decide

/-- Settles O18: each offset of the map is the offset of its register. -/
theorem registerMapReads : Obligations.RegisterMapReads := fun s =>
  ⟨hostRead_reg s .id, hostRead_reg s .param, hostRead_reg s .dbufsz, hostRead_reg s .cap,
    hostRead_reg s .ctrl, hostRead_reg s .status, hostRead_reg s .cmd, hostRead_reg s .errinfo,
    hostRead_reg s (.op .src0), hostRead_reg s (.op .src1), hostRead_reg s (.op .dst),
    hostRead_reg s (.op .len0), hostRead_reg s (.op .len1), hostRead_reg s (.op .len2),
    hostRead_reg s (.op .iter), fun k => regOffset_digest k ▸ hostRead_reg s (.digest k)⟩

/-- Settles O8: the reset state, register by register. -/
theorem resetStateHoldsSpecValues : Obligations.ResetStateHoldsSpecValues := by
  refine ⟨rfl, rfl, rfl, by decide, by decide, by decide, rfl, by decide, ?_,
    rfl, rfl, rfl, rfl, rfl, rfl, rfl, rfl, rfl, rfl⟩
  intro r
  cases r <;> rfl

/-! ## Register writes -/

theorem writeCmd_of_idle {s : State} (h : s.status.busy = false) (w : Word) : s.writeCmd w = s.issue w := by
  simp [State.writeCmd, h]

theorem writeCmd_of_busy {s : State} (h : s.status.busy = true) (w : Word) :
    s.writeCmd w = { s with status := { s.status with overrun := true } } := by
  simp [State.writeCmd, h]

theorem hostWrite_cmd_of_idle {s : State} (h : s.status.busy = false) (w : Word) :
    s.hostWrite .b32 0x018 w = s.issue w := (hostWrite_reg s .cmd w).trans (writeCmd_of_idle h w)

theorem hostWrite_cmd_of_busy {s : State} (h : s.status.busy = true) (w : Word) :
    s.hostWrite .b32 0x018 w = { s with status := { s.status with overrun := true } } :=
  (hostWrite_reg s .cmd w).trans (writeCmd_of_busy h w)

theorem hostWrite_status (s : State) (w : Word) :
    s.hostWrite .b32 0x014 w = { s with status := s.status.written w } := hostWrite_reg s .status w

theorem hostWrite_ctrl (s : State) (w : Word) :
    s.hostWrite .b32 0x010 w = { s with ctrl := ctrlOfWord w } := hostWrite_reg s .ctrl w

theorem hostRead_cmd (s : State) : s.hostRead .b32 0x018 = (s, s.cmd) := hostRead_reg s .cmd

/-- Settles O24: a CMD write is `writeCmd`, in its two cases. -/
theorem cmdWriteIssuesOrOverruns : Obligations.CmdWriteIssuesOrOverruns := by
  refine ⟨congrArg Prod.snd (hostRead_cmd State.reset), fun s w => ⟨fun idle => ?_, fun busy => ?_⟩⟩
  · rw [hostWrite_cmd_of_idle idle, hostRead_cmd]
    exact ⟨rfl, rfl⟩
  · rw [hostWrite_cmd_of_busy busy, hostRead_cmd]
    exact ⟨rfl, rfl⟩

/-- Settles O26: a STATUS write is `Status.written`. -/
theorem statusWriteClearsMarkedBits : Obligations.StatusWriteClearsMarkedBits := fun s w =>
  ⟨s.status.written w, hostWrite_status s w, rfl, fun h => by rw [status_written_err, if_pos h],
    fun h => by rw [status_written_err, h, if_neg Bool.false_ne_true], rfl, rfl, rfl, rfl, rfl⟩

/-- Reading an operand register after a write to one of them (10_state.md R29). -/
theorem opRegs_get_set (o : OpRegs) (q r : OpReg) (v : Word) :
    (o.set r v).get q = if q = r then v else o.get q := by
  cases r <;> cases q <;> rfl

theorem hostWrite_op (s : State) (r : OpReg) (v : Word) :
    s.hostWrite .b32 (opRegOffset r) v = { s with ops := s.ops.set r v } := hostWrite_reg s (.op r) v

theorem hostRead_op (s : State) (r : OpReg) : s.hostRead .b32 (opRegOffset r) = (s, s.ops.get r) :=
  hostRead_reg s (.op r)

end Sys2Proof.Machine
end

section
/-! PROOF. What a step that is no reset keeps or may change, one field at a time: CAP, H, BUSY and the sticky bits
of STATUS. -/

namespace Sys2Proof.Machine

/-! ## CAP (10_state.md R41) -/

theorem hostEffect_cap {s u : State} {st? : Option Stmt} (h : HostEffect s st? u) : u.cap = s.cap := by
  cases h <;> rfl

/-- CAP is kept, or written for the first time. -/
def CapKeptOrLatched (s t : State) : Prop :=
  t.cap = s.cap ∨ (s.cap.detected = false ∧ t.cap = ⟨true, s.build.vecPresent⟩)

theorem detect_capKeptOrLatched (s : State) : CapKeptOrLatched s s.detect := by
  cases hd : s.cap.detected with
  | true => exact .inl (by simp [hd])
  | false => exact .inr ⟨hd, by simp [hd]⟩

theorem completion_capKeptOrLatched {s t : State} (h : Completion s t) : CapKeptOrLatched s t := by
  cases h with
  | error c f _ _ => exact .inl rfl
  | ok _ hc =>
    rcases hc.keepsCap with rfl | rfl
    · exact .inl rfl
    · exact detect_capKeptOrLatched s

theorem step_capKeptOrLatched {s t : State} (h : step s = .next t) (hr : s.nextTurn ≠ .reset) :
    CapKeptOrLatched s t := by
  cases step_stepEffect h with
  | reset turn => exact absurd turn hr
  | idle _ _ => exact .inl rfl
  | complete _ _ done => exact (completion_capKeptOrLatched done :)
  | host _ effect _ => exact .inl (hostEffect_cap effect :)

/-- Settles O13: only a completion writes CAP, and as Detect() does. -/
theorem capIsWrittenOncePerReset : Obligations.CapIsWrittenOncePerReset := fun _ _ => step_capKeptOrLatched

/-! ## The digest registers (10_state.md R30) -/

theorem hostEffect_h {s u : State} {st? : Option Stmt} (h : HostEffect s st? u) : u.h = s.h := by
  cases h <;> rfl

theorem completion_changes_h {s t : State} (h : Completion s t) (hne : t.h ≠ s.h) :
    s.latch.cmd = encode .sha256Init ∨ s.latch.cmd = encode .sha256Compress := by
  cases h with
  | error c f _ _ => exact absurd rfl hne
  | ok hd hc =>
    rcases hc.keepsH with rfl | rfl | rfl
    · exact .inl (eq_encode_of_decode hd)
    · exact .inr (eq_encode_of_decode hd)
    · exact absurd rfl hne

/-- Settles O16: only the core's completions write H. -/
theorem digestRegistersWrittenOnlyByInitAndCompress :
    Obligations.DigestRegistersWrittenOnlyByInitAndCompress := by
  intro s t h hr hne
  cases step_stepEffect h with
  | reset turn => exact absurd turn hr
  | idle _ _ => exact absurd rfl hne
  | complete turn busy done => exact ⟨turn, busy, (completion_changes_h done hne :)⟩
  | host _ effect _ => exact absurd (hostEffect_h effect) hne

/-! ## BUSY (10_state.md R36) -/

theorem completion_busy {s t : State} (h : Completion s t) : t.status.busy = false := by
  cases h <;> rfl

/-- A turn of the host keeps BUSY or issues a command. -/
theorem hostEffect_busy {s u : State} {st? : Option Stmt} (h : HostEffect s st? u) :
    u.status.busy = s.status.busy ∨
      (s.status.busy = false ∧ ∃ w, st? = some (.write .b32 0x018 w)) := by
  cases h with
  | issue v wr idle => exact .inr ⟨idle, v, wr⟩
  | _ => exact .inl rfl

/-- Settles O14: an issue is the only host effect on BUSY; a completion and a reset leave BUSY = 0. -/
theorem onlyIssueCompletionResetChangeBusy : Obligations.OnlyIssueCompletionResetChangeBusy := by
  intro s t h
  cases step_stepEffect h with
  | reset turn => exact ⟨nofun, fun _ _ => .inr turn⟩
  | idle turn idle => exact ⟨fun _ hb => absurd (idle.symm.trans hb) nofun, fun _ _ => .inl turn⟩
  | complete turn _ done =>
    exact ⟨fun _ hb => absurd ((completion_busy done).symm.trans hb) nofun, fun _ _ => .inl turn⟩
  | host turn effect _ =>
    rcases hostEffect_busy effect with e | ⟨idle, hissue⟩
    · exact ⟨fun h0 h1 => absurd (h0.symm.trans (e.symm.trans h1)) nofun,
        fun h1 h0 => absurd (h0.symm.trans (e.trans h1)) nofun⟩
    · exact ⟨fun _ _ => ⟨turn, hissue⟩, fun hb => absurd (idle.symm.trans hb) nofun⟩

/-! ## OVERRUN, BUSY_ACC and BUS_ERR (10_state.md R25) -/

/-- Each sticky bit that was 1 still is. -/
structure StickyKept (st st' : Status) : Prop where
  overrun : st.overrun = true → st'.overrun = true
  busyAcc : st.busyAcc = true → st'.busyAcc = true
  busErr : st.busErr = true → st'.busErr = true

theorem completion_stickyKept {s t : State} (h : Completion s t) : StickyKept s.status t.status := by
  cases h <;> exact ⟨id, id, id⟩

/-- A turn of the host keeps the sticky bits, unless it is a STATUS write. -/
theorem hostEffect_stickyKept_or_written {s u : State} {st? : Option Stmt} (h : HostEffect s st? u) :
    StickyKept s.status u.status ∨
      ∃ w, st? = some (.write .b32 0x014 w) ∧ u.status = s.status.written w := by
  cases h with
  | status v wr => exact .inr ⟨v, wr, rfl⟩
  | busError => exact .inl ⟨id, id, fun _ => rfl⟩
  | dbufDropped _ => exact .inl ⟨id, fun _ => rfl, id⟩
  | overrun _ => exact .inl ⟨fun _ => rfl, id, id⟩
  | _ => exact .inl ⟨id, id, id⟩

theorem step_stickyKept_or_written {s t : State} (h : step s = .next t) (hr : s.nextTurn ≠ .reset) :
    StickyKept s.status t.status ∨ (s.nextTurn = .host ∧
      ∃ w, s.hostStmt? = some (.write .b32 0x014 w) ∧ t.status = s.status.written w) := by
  cases step_stepEffect h with
  | reset turn => exact absurd turn hr
  | idle _ _ => exact .inl ⟨id, id, id⟩
  | complete _ _ done => exact .inl (completion_stickyKept done :)
  | host turn effect _ => exact (hostEffect_stickyKept_or_written effect).imp id fun hw => ⟨turn, hw⟩

/-- A bit that W1C cleared was marked in the word written. -/
theorem marked_of_w1c {b b' m : Bool} (e : b' = (b && !m)) (hb : b = true) (hb' : b' = false) : m = true := by
  simpa [hb, hb'] using e

/-- Settles O15: a sticky bit falls only in a STATUS write, and there only where its own bit is marked. -/
theorem stickyBitsClearedOnlyByW1C : Obligations.StickyBitsClearedOnlyByW1C := by
  intro s t h hr
  rcases step_stickyKept_or_written h hr with kept | ⟨turn, w, hst, e⟩
  · exact ⟨fun h1 h0 => absurd (h0.symm.trans (kept.overrun h1)) nofun,
      fun h1 h0 => absurd (h0.symm.trans (kept.busyAcc h1)) nofun,
      fun h1 h0 => absurd (h0.symm.trans (kept.busErr h1)) nofun⟩
  · rw [e]
    exact ⟨fun h1 h0 => ⟨turn, w, hst, marked_of_w1c rfl h1 h0⟩,
      fun h1 h0 => ⟨turn, w, hst, marked_of_w1c rfl h1 h0⟩,
      fun h1 h0 => ⟨turn, w, hst, marked_of_w1c rfl h1 h0⟩⟩

end Sys2Proof.Machine
end

section
/-! PROOF. The bits of the words that STATUS, CTRL, CAP and ERRINFO read as (10_state.md R23 to R25, R28). -/

namespace Sys2Proof.Machine

/-! ## Two flags in a word: CTRL and CAP -/

theorem getLsbD_bitAt (b : Bool) {i : Nat} (hi : i < 32) (j : Nat) :
    (bitAt b i).getLsbD j = (decide (j = i) && b) := by
  rw [bitAt, BitVec.getLsbD_shiftLeft, BitVec.getLsbD_setWidth, BitVec.getLsbD_ofBool]
  rcases Nat.lt_trichotomy j i with hlt | rfl | hgt
  · simp [hlt, hlt.ne]
  · simp [hi]
  · simp [hgt.ne', Nat.sub_ne_zero_of_lt hgt]

/-- Flags in bits 0 and 1. -/
def twoFlags (a b : Bool) : Word := bitAt a 0 ||| bitAt b 1

theorem ctrl_word_eq (c : Ctrl) : c.word = twoFlags c.ie c.forceScalar := rfl
theorem cap_word_eq (c : Cap) : c.word = twoFlags c.detected c.vec := rfl

theorem twoFlags_getLsbD (a b : Bool) (j : Nat) :
    (twoFlags a b).getLsbD j = (decide (j = 0) && a || decide (j = 1) && b) := by
  rw [twoFlags, BitVec.getLsbD_or, getLsbD_bitAt a (by decide), getLsbD_bitAt b (by decide)]

theorem twoFlags_bit0 (a b : Bool) : (twoFlags a b).getLsbD 0 = a := by rw [twoFlags_getLsbD]; simp
theorem twoFlags_bit1 (a b : Bool) : (twoFlags a b).getLsbD 1 = b := by rw [twoFlags_getLsbD]; simp

/-- The bits above the two flags are 0. -/
theorem twoFlags_reserved (a b : Bool) : (twoFlags a b).extractLsb' 2 30 = 0 := by
  refine BitVec.eq_of_getLsbD_eq fun i _ => ?_
  have h1 : ¬ 2 + i = 1 := by omega
  simp [BitVec.getLsbD_extractLsb', twoFlags_getLsbD, h1]

/-- Masking a word to its two low bits leaves their flags. -/
theorem twoFlags_of_word (w : Word) : twoFlags (w.getLsbD 0) (w.getLsbD 1) = w &&& 0x3 := by
  have mask : (0x3 : Word) = twoFlags true true := by decide
  refine BitVec.eq_of_getLsbD_eq fun i _ => ?_
  rw [mask, BitVec.getLsbD_and, twoFlags_getLsbD, twoFlags_getLsbD]
  by_cases h0 : i = 0
  · simp [h0]
  · by_cases h1 : i = 1 <;> simp [h0, h1]

/-! ## A code above a low byte: STATUS and ERRINFO -/

/-- The code `c` in bits [11:8] over the word `x`. -/
def withCode (x : Word) (c : BitVec 4) : Word := x ||| (c.setWidth 32 <<< 8)

theorem withCode_getLsbD (x : Word) (c : BitVec 4) {j : Nat} (hj : j < 32) :
    (withCode x c).getLsbD j = (x.getLsbD j || decide (8 ≤ j) && c.getLsbD (j - 8)) := by
  rw [withCode, BitVec.getLsbD_or, BitVec.getLsbD_shiftLeft, BitVec.getLsbD_setWidth]
  rcases Nat.lt_or_ge j 8 with hlt | hge
  · simp [hlt, Nat.not_le.2 hlt]
  · simp only [hj, hge, Nat.not_lt.2 hge, show j - 8 < 32 by omega, decide_true, decide_false, Bool.not_false,
      Bool.true_and]

theorem withCode_low (x : Word) (c : BitVec 4) {j : Nat} (hj : j < 8) :
    (withCode x c).getLsbD j = x.getLsbD j := by
  rw [withCode_getLsbD x c (by omega)]
  simp [Nat.not_le.2 hj]

section
variable {x : Word} (c : BitVec 4) (hx : ∀ j, 8 ≤ j → x.getLsbD j = false)
include hx

theorem withCode_high {j : Nat} (hj : 8 ≤ j) (hlt : j < 32) :
    (withCode x c).getLsbD j = c.getLsbD (j - 8) := by
  rw [withCode_getLsbD x c hlt, hx j hj]
  simp [hj]

theorem withCode_code : (withCode x c).extractLsb' 8 4 = c := by
  refine BitVec.eq_of_getLsbD_eq fun i hi => ?_
  rw [BitVec.getLsbD_extractLsb', withCode_high c hx (by omega) (by omega), Nat.add_sub_cancel_left]
  simp [hi]

theorem withCode_reserved : (withCode x c).extractLsb' 12 20 = 0 := by
  refine BitVec.eq_of_getLsbD_eq fun i hi => ?_
  rw [BitVec.getLsbD_extractLsb', withCode_high c hx (by omega) (by omega),
    BitVec.getLsbD_of_ge c _ (by omega), Bool.and_false, BitVec.ofNat_eq_ofNat, BitVec.getLsbD_zero]

end

/-- The flags of STATUS, bits [5:0]. -/
def Status.flags (st : Status) : Word :=
  bitAt st.busy 0 ||| bitAt st.done 1 ||| bitAt st.path 2 ||| bitAt st.overrun 3 ||| bitAt st.busyAcc 4 |||
    bitAt st.busErr 5

theorem status_word_eq (st : Status) : st.word = withCode st.flags st.err.code := rfl
theorem errinfo_word_eq (e : ErrInfo) : e.word = withCode (e.op.setWidth 32) e.field.code := rfl

theorem status_flags_getLsbD (st : Status) (j : Nat) :
    st.flags.getLsbD j = (decide (j = 0) && st.busy || decide (j = 1) && st.done || decide (j = 2) && st.path ||
      decide (j = 3) && st.overrun || decide (j = 4) && st.busyAcc || decide (j = 5) && st.busErr) := by
  simp only [Status.flags, BitVec.getLsbD_or]
  rw [getLsbD_bitAt _ (by decide), getLsbD_bitAt _ (by decide), getLsbD_bitAt _ (by decide),
    getLsbD_bitAt _ (by decide), getLsbD_bitAt _ (by decide), getLsbD_bitAt _ (by decide)]

theorem status_flags_above (st : Status) {j : Nat} (hj : 6 ≤ j) : st.flags.getLsbD j = false := by
  rw [status_flags_getLsbD]
  simp [show j ≠ 0 by omega, show j ≠ 1 by omega, show j ≠ 2 by omega, show j ≠ 3 by omega,
    show j ≠ 4 by omega, show j ≠ 5 by omega]

theorem status_word_low (st : Status) {j : Nat} (hj : j < 8) : st.word.getLsbD j = st.flags.getLsbD j := by
  rw [status_word_eq, withCode_low _ _ hj]

theorem status_word_reserved_low (st : Status) : st.word.extractLsb' 6 2 = 0 := by
  refine BitVec.eq_of_getLsbD_eq fun i hi => ?_
  rw [BitVec.getLsbD_extractLsb', status_word_low st (by omega), status_flags_above st (by omega),
    Bool.and_false, BitVec.ofNat_eq_ofNat, BitVec.getLsbD_zero]

theorem status_word_err (st : Status) : st.word.extractLsb' 8 4 = st.err.code :=
  withCode_code _ fun _ hj => status_flags_above st (by omega)

theorem status_word_reserved_high (st : Status) : st.word.extractLsb' 12 20 = 0 :=
  withCode_reserved _ fun _ hj => status_flags_above st (by omega)

theorem errinfo_op_above (e : ErrInfo) {j : Nat} (hj : 8 ≤ j) : (e.op.setWidth 32).getLsbD j = false := by
  rw [BitVec.getLsbD_setWidth, BitVec.getLsbD_of_ge e.op j hj, Bool.and_false]

theorem errinfo_word_op (e : ErrInfo) : e.word.extractLsb' 0 8 = e.op := by
  refine BitVec.eq_of_getLsbD_eq fun i hi => ?_
  rw [BitVec.getLsbD_extractLsb', errinfo_word_eq, withCode_low _ _ (by omega), BitVec.getLsbD_setWidth, Nat.zero_add]
  simp [hi, show i < 32 by omega]

theorem errinfo_word_field (e : ErrInfo) : e.word.extractLsb' 8 4 = e.field.code :=
  withCode_code _ fun _ => errinfo_op_above e

theorem errinfo_word_reserved (e : ErrInfo) : e.word.extractLsb' 12 20 = 0 :=
  withCode_reserved _ fun _ => errinfo_op_above e

theorem status_word_bits (st : Status) :
    st.word.getLsbD 0 = st.busy ∧ st.word.getLsbD 1 = st.done ∧ st.word.getLsbD 2 = st.path ∧
      st.word.getLsbD 3 = st.overrun ∧ st.word.getLsbD 4 = st.busyAcc ∧ st.word.getLsbD 5 = st.busErr := by
  refine ⟨?_, ?_, ?_, ?_, ?_, ?_⟩ <;> rw [status_word_low st (by decide), status_flags_getLsbD] <;> simp

/-- Settles O19: the bits of each word, and the code tables. -/
theorem statusAndControlWordLayout : Obligations.StatusAndControlWordLayout := by
  refine ⟨fun st => ?_, fun c => ?_, fun c => ?_, fun e => ?_, by decide, by decide⟩
  · obtain ⟨h0, h1, h2, h3, h4, h5⟩ := status_word_bits st
    exact ⟨h0, h1, h2, h3, h4, h5, status_word_reserved_low st, status_word_err st, status_word_reserved_high st⟩
  · rw [ctrl_word_eq]
    exact ⟨twoFlags_bit0 _ _, twoFlags_bit1 _ _, twoFlags_reserved _ _⟩
  · rw [cap_word_eq]
    exact ⟨twoFlags_bit0 _ _, twoFlags_bit1 _ _, twoFlags_reserved _ _⟩
  · exact ⟨errinfo_word_op e, errinfo_word_field e, errinfo_word_reserved e⟩

end Sys2Proof.Machine
end

section
/-! PROOF. Operand and CTRL writes (10_state.md R24, R29), and the offsets and accesses of the CSR half that change
nothing or only set BUS_ERR (R19). -/

namespace Sys2Proof.Machine

theorem hostRead_ctrl (s : State) : s.hostRead .b32 0x010 = (s, s.ctrl.word) := hostRead_reg s .ctrl

/-- CTRL reads back the two low bits written. -/
theorem hostRead_ctrl_hostWrite (s : State) (v : Word) :
    ((s.hostWrite .b32 0x010 v).hostRead .b32 0x010).2 = v &&& 0x3 := by
  rw [hostWrite_ctrl, hostRead_ctrl]
  exact twoFlags_of_word v

/-- Settles O27: an operand write is `OpRegs.set`, a CTRL write `ctrlOfWord`. -/
theorem operandAndControlWrites : Obligations.OperandAndControlWrites := by
  refine ⟨fun s r v => ⟨s.ops.set r v, hostWrite_op s r v, ?_, fun q hq => ?_, ?_⟩,
    fun s v => ⟨hostWrite_ctrl s v, hostRead_ctrl_hostWrite s v⟩⟩
  · rw [opRegs_get_set, if_pos rfl]
  · rw [opRegs_get_set, if_neg hq]
  · rw [hostWrite_op, hostRead_op]
    exact (opRegs_get_set _ _ _ _).trans (if_pos rfl)

/-! ## Reserved and read-only offsets -/

/-- No register lies at 0x03C or above 0x05C. -/
theorem regAt_reserved {off : Offset} (h : off = 0x03C ∨ 0x060 ≤ off.toNat) : regAt off = none := by
  rcases h with rfl | hge
  · rfl
  · refine Option.eq_none_iff_forall_ne_some.2 fun r hr => ?_
    have hlt := (regOffset_bounds r).2
    rw [← eq_offset_of_regAt hr] at hlt
    omega

theorem readCsr_of_none {s : State} {off : Offset} (h : regAt off = none) : s.readCsr off = 0 := by
  simp [State.readCsr, h]

theorem writeCsr_of_none {s : State} {off : Offset} (h : regAt off = none) (v : Word) : s.writeCsr off v = s := by
  simp [State.writeCsr, h]

theorem opRegOffset_range (r : OpReg) : 0x020 ≤ (opRegOffset r).toNat ∧ (opRegOffset r).toNat ≤ 0x038 := by
  cases r <;> decide

/-- Only CTRL, STATUS, CMD and the operand registers take writes. -/
theorem writeCsr_readOnly (s : State) {off : Offset} (v : Word)
    (h : off.toNat ≤ 0x00C ∨ off = 0x01C ∨ 0x040 ≤ off.toNat) : s.writeCsr off v = s := by
  have hoff : off.toNat ≤ 0x00C ∨ off.toNat = 0x01C ∨ 0x040 ≤ off.toNat := h.imp id (.imp (congrArg _) id)
  rcases writeCsr_cases s off v with e | ⟨rfl, -⟩ | ⟨rfl, -⟩ | ⟨rfl, -⟩ | ⟨rfl, -⟩ | ⟨r, hr, -⟩
  · exact e
  iterate 4 exact absurd hoff (by decide)
  · have hop := opRegOffset_range r
    rw [show opRegOffset r = off from (eq_offset_of_regAt hr).symm] at hop
    omega

/-! ## Unsupported accesses -/

theorem hostRead_illegal (s : State) {size : Size} {off : Offset} (h : legalAccess size off = false) :
    s.hostRead size off = (s.busError, 0) := by simp [State.hostRead, h]

theorem hostWrite_illegal (s : State) {size : Size} {off : Offset} (v : Word)
    (h : legalAccess size off = false) : s.hostWrite size off v = s.busError := by simp [State.hostWrite, h]

/-- The CSR half supports aligned words only (20_memory.md R49). -/
theorem legalAccess_csr {size : Size} {off : Offset} (hoff : off.toNat < 0x400)
    (h : ¬ (size = .b32 ∧ off.toNat % 4 = 0)) : legalAccess size off = false := by
  rw [← Bool.not_eq_true]
  intro hl
  cases size with
  | b32 => exact h ⟨rfl, (legalAccess_b32 off).1 hl⟩
  | b8 => exact absurd ((legalAccess_b8 off).1 hl) (by omega)
  | other bits => cases hl

/-- A STATUS write reads bits 1, 3, 4 and 5 of its word only (10_state.md R26). -/
theorem status_written_mask (st : Status) (w : Word) : st.written w = st.written (w &&& 0x3A) := by
  have h1 : (w &&& 0x3A).getLsbD 1 = w.getLsbD 1 := by simp
  have h3 : (w &&& 0x3A).getLsbD 3 = w.getLsbD 3 := by simp
  have h4 : (w &&& 0x3A).getLsbD 4 = w.getLsbD 4 := by simp
  have h5 : (w &&& 0x3A).getLsbD 5 = w.getLsbD 5 := by simp
  simp only [Status.written, h1, h3, h4, h5]

theorem paramValue_reserved : paramValue.extractLsb' 24 8 = 0 := by decide

/-- Settles O20: reserved offsets hold no register, read-only ones take no write, reserved bits read 0 and ignore
writes, and any other CSR access is a bus error. -/
theorem reservedAndReadOnlyOffsets : Obligations.ReservedAndReadOnlyOffsets := by
  refine ⟨fun s off v h4 h => ?_, fun s off v h4 h => ?_, fun s v => ⟨hostRead_ctrl_hostWrite s v, ?_⟩,
    fun s => ?_, fun s size off v hoff h => ?_⟩
  · have hnone : regAt off = none := regAt_reserved (h.imp id And.left)
    have hlt : off.toNat < 1024 := by
      rcases h with rfl | ⟨-, h⟩
      · decide
      · omega
    rw [hostRead_csr s h4 hlt, hostWrite_csr s v h4 hlt]
    exact ⟨by rw [readCsr_of_none hnone], writeCsr_of_none hnone v⟩
  · have hlt : off.toNat < 1024 := by
      rcases h with h | rfl | ⟨-, h⟩
      · omega
      · decide
      · omega
    rw [hostWrite_csr s v h4 hlt]
    exact writeCsr_readOnly s v (h.imp id (.imp id And.left))
  · rw [hostWrite_status, hostWrite_status, status_written_mask]
  · obtain ⟨-, hparam, -, hcap, hctrl, hstatus, -, herrinfo, -⟩ := registerMapReads s
    rw [hparam, hcap, hctrl, hstatus, herrinfo]
    exact ⟨paramValue_reserved, twoFlags_reserved _ _, twoFlags_reserved _ _, status_word_reserved_low _,
      status_word_reserved_high _, errinfo_word_reserved _⟩
  · have hl := legalAccess_csr hoff h
    exact ⟨hostRead_illegal s hl, hostWrite_illegal s v hl⟩

end Sys2Proof.Machine
end

section
/-! PROOF. irq is IE & DONE: what raises it, what lowers it, and what does neither (10_state.md R35;
60_exceptions.md R125). -/

namespace Sys2Proof.Machine

theorem irq_eq_true_iff (s : State) : s.irq = true ↔ s.ctrl.ie = true ∧ s.status.done = true :=
  Bool.and_eq_true_iff

theorem irq_of_not_done {s : State} (h : s.status.done = false) : s.irq = false := by
  rw [State.irq, h, Bool.and_false]

theorem irq_of_not_enabled {s : State} (h : s.ctrl.ie = false) : s.irq = false := by
  rw [State.irq, h, Bool.false_and]

/-- A completion, with or without error, leaves irq at IE. -/
theorem completion_irq {s t : State} (h : Completion s t) : t.irq = s.ctrl.ie := by
  cases h <;> exact Bool.and_true _

/-- Neither irq nor DONE has moved. -/
def IrqKept (s t : State) : Prop := t.irq = s.irq ∧ t.status.done = s.status.done

theorem irqKept_of {s t : State} (hctrl : t.ctrl = s.ctrl) (hdone : t.status.done = s.status.done) :
    IrqKept s t := ⟨by rw [State.irq, State.irq, hctrl, hdone], hdone⟩

theorem busError_irqKept (s : State) : IrqKept s s.busError := irqKept_of rfl rfl

/-- A write to DBUF while BUSY = 1 is dropped or is a bus error. -/
theorem hostWrite_dbuf_busy_irqKept {s : State} (size : Size) {off : Offset} (v : Word)
    (busy : s.status.busy = true) (hoff : 0x400 ≤ off.toNat) : IrqKept s (s.hostWrite size off v) := by
  rcases hostWrite_cases s size off v with ⟨-, e⟩ | ⟨-, -, hc, -⟩ | ⟨-, e⟩ | ⟨idle, -⟩
  · rw [e]; exact busError_irqKept s
  · exact absurd ((isCsr_eq_true off).1 hc) (by omega)
  · rw [e]; exact irqKept_of rfl rfl
  · exact absurd (busy.symm.trans idle) nofun

theorem hostRead_irqKept (s : State) (size : Size) (off : Offset) : IrqKept s (s.hostRead size off).1 := by
  rcases hostRead_cases s size off with ⟨-, e⟩ | ⟨-, e | ⟨-, -, n, e⟩⟩ <;> rw [e] <;> exact irqKept_of rfl rfl

/-- Settles O29: each event acts on IE and DONE, and irq follows. -/
theorem irqFollowsEnableAndDone : Obligations.IrqFollowsEnableAndDone := by
  intro s
  refine ⟨irq_eq_true_iff s, fun t h => completion_irq (complete_completion h), fun w hw => ?_, fun w idle => ?_,
    fun w hw => ?_, fun w busy => ?_, fun size off v => hostWrite_dbuf_busy_irqKept size v,
    fun size off v hl => ?_, hostRead_irqKept s⟩
  · rw [hostWrite_status]
    exact irq_of_not_done (by rw [status_written_done, hw, Bool.not_true, Bool.and_false])
  · rw [hostWrite_cmd_of_idle idle]
    exact irq_of_not_done rfl
  · rw [hostWrite_ctrl]
    exact ⟨irq_of_not_enabled hw, rfl⟩
  · rw [hostWrite_cmd_of_busy busy]
    exact irqKept_of rfl rfl
  · rw [hostWrite_illegal s v hl]
    exact busError_irqKept s

end Sys2Proof.Machine
end

section
/-! PROOF. Host accesses: which the window supports, the bus error of the others, and byte by byte what a supported
access to DBUF reads and writes (20_memory.md R49, R50, R54, R56, R61). -/

namespace Sys2Proof.Machine

/-! ## Supported and unsupported accesses -/

/-- The accesses the window supports (20_memory.md R49). -/
theorem legalAccess_iff (size : Size) (off : Offset) :
    legalAccess size off = true ↔
      (size = .b32 ∧ off.toNat % 4 = 0) ∨ (size = .b8 ∧ 0x400 ≤ off.toNat) := by
  cases size with
  | b32 => simp [legalAccess_b32]
  | b8 => simp [legalAccess_b8]
  | other bits => simp [legalAccess]

/-- Settles O21: none of the three kinds is supported, and an unsupported access is `busError`. -/
theorem busErrorSetsBusErrOnly : Obligations.BusErrorSetsBusErrOnly := by
  intro s size off v kind
  have unsupported : legalAccess size off = false := by
    rw [← Bool.not_eq_true, legalAccess_iff]
    rcases kind with ⟨rfl, h4⟩ | ⟨rfl, hcsr⟩ | ⟨bits, rfl⟩
    · simp [h4]
    · simpa using hcsr
    · simp
  exact ⟨hostRead_illegal s unsupported, hostWrite_illegal s v unsupported⟩

/-- Settles O22: of the effects of a read (`hostRead_cases`), a supported one has none or draws values, the latter
of DBUF while BUSY = 1 only. -/
theorem readsHaveNoSideEffect : Obligations.ReadsHaveNoSideEffect := by
  intro s size off supported
  have legal := (legalAccess_iff size off).2 supported
  rcases hostRead_cases s size off with ⟨illegal, -⟩ | ⟨-, e | ⟨busy, notCsr, n, e⟩⟩
  · exact absurd (legal.symm.trans illegal) nofun
  · exact ⟨fun _ => e, s.draws, e⟩
  · refine ⟨?_, _, e⟩
    rintro (csr | idle)
    · exact absurd ((isCsr_eq_false off).1 notCsr) (Nat.not_le.2 csr)
    · exact absurd (busy.symm.trans idle) nofun

/-! ## Accesses to the DBUF half -/

theorem hostReadDbuf_of_idle {s : State} (h : s.status.busy = false) (a n : Nat) :
    s.hostReadDbuf a n = (s, s.memRead a n) := by simp [State.hostReadDbuf, h]

/-- While BUSY = 1 the bytes a read returns depend on the count of draws alone (log 4). -/
theorem hostReadDbuf_snd_congr_of_busy {s t : State} (hs : s.status.busy = true) (ht : t.status.busy = true)
    (hdraws : t.draws = s.draws) (a n : Nat) : (t.hostReadDbuf a n).2 = (s.hostReadDbuf a n).2 := by
  simp [State.hostReadDbuf, hs, ht, hdraws]

theorem hostWriteDbuf_of_idle {s : State} (h : s.status.busy = false) (a : Nat) (v : Bytes) :
    s.hostWriteDbuf a v = s.memWrite a v := by simp [State.hostWriteDbuf, h]

theorem hostWriteDbuf_of_busy {s : State} (h : s.status.busy = true) (a : Nat) (v : Bytes) :
    s.hostWriteDbuf a v = { s with status := { s.status with busyAcc := true } } := by
  simp [State.hostWriteDbuf, h]

section
variable (s : State) {off : Offset} (hd : 0x400 ≤ off.toNat)
include hd

theorem hostRead_b8_dbuf : s.hostRead .b8 off =
    ((s.hostReadDbuf (dbufIndex off) 1).1, (byteAt (s.hostReadDbuf (dbufIndex off) 1).2 0).setWidth 32) := by
  simp [State.hostRead, (legalAccess_b8 off).2 hd]

theorem hostWrite_b8_dbuf (v : Word) :
    s.hostWrite .b8 off v = s.hostWriteDbuf (dbufIndex off) [v.setWidth 8] := by
  simp [State.hostWrite, (legalAccess_b8 off).2 hd]

variable (h4 : off.toNat % 4 = 0)
include h4

theorem hostRead_b32_dbuf : s.hostRead .b32 off =
    ((s.hostReadDbuf (dbufIndex off) 4).1, u32le (s.hostReadDbuf (dbufIndex off) 4).2 0) := by
  simp [State.hostRead, (legalAccess_b32 off).2 h4, (isCsr_eq_false off).2 hd]

theorem hostWrite_b32_dbuf (v : Word) :
    s.hostWrite .b32 off v = s.hostWriteDbuf (dbufIndex off) (le32 v) := by
  simp [State.hostWrite, (legalAccess_b32 off).2 h4, (isCsr_eq_false off).2 hd]

end

/-- Settles O25: while BUSY = 1 a write is dropped, and a read draws its bytes instead of reading them. -/
theorem dbufBelongsToTheCoreWhileBusy : Obligations.DbufBelongsToTheCoreWhileBusy := by
  intro s size off v busy hd supported
  have drawn (m : Memory) := hostReadDbuf_snd_congr_of_busy (t := { s with dbuf := m }) busy busy rfl (dbufIndex off)
  rcases supported with ⟨rfl, h4⟩ | rfl
  · refine ⟨by rw [hostWrite_b32_dbuf s hd h4, hostWriteDbuf_of_busy busy], fun m => ?_⟩
    rw [hostRead_b32_dbuf _ hd h4, hostRead_b32_dbuf _ hd h4, drawn]
  · refine ⟨by rw [hostWrite_b8_dbuf s hd, hostWriteDbuf_of_busy busy], fun m => ?_⟩
    rw [hostRead_b8_dbuf _ hd, hostRead_b8_dbuf _ hd, drawn]

/-! ## Byte order (20_memory.md R50) -/

theorem byteAt_memRead (s : State) (a : Nat) {n k : Nat} (h : k < n) :
    byteAt (s.memRead a n) k = s.dbufByte (a + k) := by
  have hk : k < (s.memRead a n).length := by rwa [memRead_length]
  rw [byteAt, List.getD_eq_getElem _ _ hk, memRead_getElem]

/-- Byte k of the word read from four bytes is the k-th of them. -/
theorem u32le_extractLsb' (bs : Bytes) {k : Nat} (hk : k < 4) :
    (u32le bs 0).extractLsb' (8 * k) 8 = byteAt bs k := by
  rw [u32le]
  interval_cases k
  · exact BitVec.extractLsb'_append_eq_right
  · rw [BitVec.extractLsb'_append_eq_of_le (by decide)]
    exact BitVec.extractLsb'_append_eq_right
  · rw [BitVec.extractLsb'_append_eq_of_le (by decide), BitVec.extractLsb'_append_eq_of_le (by decide)]
    exact BitVec.extractLsb'_append_eq_right
  · rw [BitVec.extractLsb'_append_eq_of_le (by decide), BitVec.extractLsb'_append_eq_of_le (by decide),
      BitVec.extractLsb'_append_eq_of_le (by decide)]
    exact BitVec.extractLsb'_eq_self

/-- The window offset of byte k of an aligned word. -/
theorem toNat_add_of_aligned {off : Offset} (h4 : off.toNat % 4 = 0) {k : Nat} (hk : k < 4) :
    (off + BitVec.ofNat 11 k).toNat = off.toNat + k := by
  have hlt := off.isLt
  rw [BitVec.toNat_add, BitVec.toNat_ofNat]
  omega

theorem dbufIndex_eq (off : Offset) : dbufIndex off = off.toNat - 0x400 := rfl

section
variable {s : State} (idle : s.status.busy = false) {off : Offset} (hd : 0x400 ≤ off.toNat)
include idle hd

theorem hostRead_b8_idle :
    s.hostRead .b8 off = (s, (s.dbufByte (off.toNat - 0x400)).setWidth 32) := by
  rw [hostRead_b8_dbuf s hd, hostReadDbuf_of_idle idle, byteAt_memRead _ _ Nat.one_pos, dbufIndex_eq, Nat.add_zero]

theorem hostWrite_b8_idle (v : Word) :
    s.hostWrite .b8 off v = s.memWrite (off.toNat - 0x400) [v.setWidth 8] := by
  rw [hostWrite_b8_dbuf s hd, hostWriteDbuf_of_idle idle, dbufIndex_eq]

variable (h4 : off.toNat % 4 = 0)
include h4

theorem hostRead_b32_idle :
    s.hostRead .b32 off = (s, u32le (s.memRead (off.toNat - 0x400) 4) 0) := by
  rw [hostRead_b32_dbuf s hd h4, hostReadDbuf_of_idle idle, dbufIndex_eq]

theorem hostWrite_b32_idle (v : Word) :
    s.hostWrite .b32 off v = s.memWrite (off.toNat - 0x400) (le32 v) := by
  rw [hostWrite_b32_dbuf s hd h4, hostWriteDbuf_of_idle idle, dbufIndex_eq]

/-- A 32-bit read gives back the word that a 32-bit write stored. -/
theorem hostRead_hostWrite_b32 (v : Word) : ((s.hostWrite .b32 off v).hostRead .b32 off).2 = v := by
  have idle' : (s.memWrite (off.toNat - 0x400) (le32 v)).status.busy = false := idle
  rw [hostWrite_b32_idle idle hd h4, hostRead_b32_idle idle' hd h4]
  exact (congrArg (u32le · 0) (memRead_memWrite_same s _ (le32 v))).trans (u32le_le32 v)

/-- Byte k of a 32-bit read is the 8-bit read at byte k. -/
theorem hostRead_b32_byte {k : Nat} (hk : k < 4) :
    ((s.hostRead .b32 off).2.extractLsb' (8 * k) 8).setWidth 32 =
      (s.hostRead .b8 (off + BitVec.ofNat 11 k)).2 := by
  have hoff := toNat_add_of_aligned h4 hk
  rw [hostRead_b32_idle idle hd h4, hostRead_b8_idle idle (by omega), u32le_extractLsb' _ hk,
    byteAt_memRead _ _ hk, hoff, Nat.sub_add_comm hd]

end

theorem dbufByte_memWrite_singleton (s : State) (a : Nat) (b : Byte) : (s.memWrite a [b]).dbufByte a = b :=
  dbufByte_memWrite_inside s a [b] Nat.one_pos

theorem dbufSameOutside_memWrite (s : State) (a : Nat) (v : Bytes) :
    DbufSameOutside s (s.memWrite a v) a v.length :=
  fun _ => dbufByte_memWrite_outside s a v

/-- Settles O23: with BUSY = 0 a write is `memWrite` of the value's bytes, and a read `memRead`. -/
theorem hostDbufAccessIsLittleEndian : Obligations.HostDbufAccessIsLittleEndian := by
  intro s off v hd idle
  refine ⟨fun h4 => ⟨fun k hk => ?_, ?_, ⟨_, hostWrite_b32_idle idle hd h4 v⟩,
    hostRead_hostWrite_b32 idle hd h4 v, fun k => hostRead_b32_byte idle hd h4,
    by rw [hostRead_b32_idle idle hd h4]⟩, ?_, ?_, ⟨_, hostWrite_b8_idle idle hd v⟩, hostRead_b8_idle idle hd⟩
  · have hlen : k < (le32 v).length := hk
    rw [hostWrite_b32_idle idle hd h4, dbufByte_memWrite_inside _ _ _ hlen, le32_getElem]
  · rw [hostWrite_b32_idle idle hd h4]
    exact dbufSameOutside_memWrite s _ (le32 v)
  · rw [hostWrite_b8_idle idle hd]
    exact dbufByte_memWrite_singleton s _ (v.setWidth 8)
  · rw [hostWrite_b8_idle idle hd]
    exact dbufSameOutside_memWrite s _ [v.setWidth 8]

end Sys2Proof.Machine
end

section
/-! PROOF. A command in flight does not see later writes to the operand registers and CTRL (20_memory.md R64): a
completion reads the latch instead, and so commutes with any change of these registers. -/

namespace Sys2Proof.Machine

/-- The state with the operand registers and CTRL changed. -/
def State.mapControls (f : OpRegs → OpRegs) (g : Ctrl → Ctrl) (s : State) : State :=
  { s with ops := f s.ops, ctrl := g s.ctrl }

section
variable (f : OpRegs → OpRegs) (g : Ctrl → Ctrl) (s : State)

@[simp] theorem mapControls_scratch : (s.mapControls f g).scratch = s.scratch := rfl
@[simp] theorem mapControls_resets : (s.mapControls f g).resets = s.resets := rfl

@[simp] theorem mapControls_source (n : Nat) : (s.mapControls f g).source n = s.source n :=
  source_congr rfl rfl rfl n

section
variable {cs : List Check} {commit commit' : State} {p : Bool}

/-- The checks, the datapath and ERRINFO come from the latch; the commit block has to be shown to change alike. -/
theorem finish_mapControls (h : commit' = commit.mapControls f g) :
    ∃ t, s.finish cs commit p = .next t ∧
      (s.mapControls f g).finish cs commit' p = .next (t.mapControls f g) :=
  finish_congr cs commit commit' p p (State.mapControls f g) (fun _ _ => rfl) (by rw [h]; rfl)

theorem exec_mapControls_of_finish {i : Instr} (he : exec i s = s.finish cs commit p)
    (he' : exec i (s.mapControls f g) = (s.mapControls f g).finish cs commit' p)
    (h : commit' = commit.mapControls f g) :
    ∃ t, exec i s = .next t ∧ exec i (s.mapControls f g) = .next (t.mapControls f g) := by
  rw [he, he']
  exact finish_mapControls f g s h

end

/-- In the two cases that run ROMix its result is generalized first, so that no `rfl` evaluates it. -/
theorem exec_mapControls (i : Instr) :
    ∃ t, exec i s = .next t ∧ exec i (s.mapControls f g) = .next (t.mapControls f g) := by
  cases i with
  | nop => exact exec_mapControls_of_finish f g s (exec_nop s) (exec_nop _) rfl
  | sha256Init => exact exec_mapControls_of_finish f g s (exec_sha256Init s) (exec_sha256Init _) rfl
  | sha256Compress => exact exec_mapControls_of_finish f g s (exec_sha256Compress s) (exec_sha256Compress _) rfl
  | sha256Digest => exact exec_mapControls_of_finish f g s (exec_sha256Digest s) (exec_sha256Digest _) rfl
  | hmacSha256 => exact exec_mapControls_of_finish f g s (exec_hmacSha256 s) (exec_hmacSha256 _) rfl
  | pbkdf2Sha256 => exact exec_mapControls_of_finish f g s (exec_pbkdf2Sha256 s) (exec_pbkdf2Sha256 _) rfl
  | salsa208 => exact exec_mapControls_of_finish f g s (exec_salsa208 s) (exec_salsa208 _) rfl
  | blockmix => exact exec_mapControls_of_finish f g s (exec_blockmix s) (exec_blockmix _) rfl
  | romix =>
    rw [exec_romix, exec_romix, mapControls_source, mapControls_resets, mapControls_scratch]
    generalize romix s.resets s.scratch (s.source Config.blk) = r
    exact finish_mapControls f g s rfl
  | scrypt =>
    rw [exec_scrypt, exec_scrypt, mapControls_source, mapControls_resets, mapControls_scratch]
    generalize scrypt s.resets s.scratch (s.source Config.inLen) = r
    exact finish_mapControls f g s rfl
  | detect => exact exec_mapControls_of_finish f g s (exec_detect s) (exec_detect _) rfl

end

theorem hostWrite_op_eq_mapControls (s : State) (r : OpReg) (v : Word) :
    s.hostWrite .b32 (opRegOffset r) v = s.mapControls (·.set r v) id := hostWrite_op s r v

theorem hostWrite_ctrl_eq_mapControls (s : State) (v : Word) :
    s.hostWrite .b32 0x010 v = s.mapControls id (fun _ => ctrlOfWord v) := hostWrite_ctrl s v

/-- Settles O28: both writes are changes of the operand registers and CTRL. -/
theorem laterWritesDoNotAffectCommandInFlight : Obligations.LaterWritesDoNotAffectCommandInFlight := by
  intro i s r v
  obtain ⟨t, ht, hop⟩ := exec_mapControls (·.set r v) id s i
  obtain ⟨t', ht', hctrl⟩ := exec_mapControls id (fun _ => ctrlOfWord v) s i
  obtain rfl : t = t' := Host.Outcome.next.inj (ht.symm.trans ht')
  refine ⟨t, ht, ?_, ?_⟩
  · rw [hostWrite_op_eq_mapControls, hostWrite_op_eq_mapControls, hop]
  · rw [hostWrite_ctrl_eq_mapControls, hostWrite_ctrl_eq_mapControls, hctrl]

end Sys2Proof.Machine
end

section
/-! PROOF. Only the offsets of the window reach the core (20_memory.md R57): the host's turn on an access. -/

namespace Sys2Proof.Machine

/-- Settles O59: a host statement's access is `busWrite` or `busRead`, in and past the window. -/
theorem onlyWindowOffsetsReachTheCore : Obligations.OnlyWindowOffsetsReachTheCore := by
  intro s size off turn
  constructor
  · intro v hst
    have hstep : step s = .next (s.popTurn.busWrite size off v).hostNext := step_host turn hst
    refine ⟨fun past => ?_, ?_⟩
    · rw [hstep, busWrite_outside _ size v past]
    · rintro o rfl
      rw [hstep, busWrite_toNat]
  · intro x hst
    have hstep : step s = .next ((s.popTurn.busRead size off).1.setVar x (s.popTurn.busRead size off).2).hostNext :=
      step_host turn hst
    refine ⟨fun past => ?_, ?_⟩
    · rw [busRead_outside _ size past] at hstep
      exact ⟨_, _, hstep⟩
    · rintro o rfl
      rw [hstep, busRead_toNat]

end Sys2Proof.Machine
end

section
/-! PROOF. The command words of the opcode table (30_encoding.md R69), and the words outside it: they are accepted at
issue and completed with ERR_ILLEGAL_OP (30_encoding.md R72; 60_exceptions.md R116). -/

namespace Sys2Proof.Machine

/-! ## The words of the table -/

theorem decode_eq_ok_iff {w : Word} {i : Instr} : decode w = .ok i ↔ w = encode i :=
  ⟨eq_encode_of_decode, fun h => h ▸ decode_encode i⟩

/-- Settles O1: a word decodes to a command exactly when it is the command's encoding, the "word" column. -/
theorem onlyTableWordsSelectCommands : Obligations.OnlyTableWordsSelectCommands :=
  ⟨fun _ => ⟨decode_eq_ok_iff, decode_eq_ok_iff, decode_eq_ok_iff, decode_eq_ok_iff, decode_eq_ok_iff,
    decode_eq_ok_iff, decode_eq_ok_iff, decode_eq_ok_iff, decode_eq_ok_iff, decode_eq_ok_iff, decode_eq_ok_iff⟩,
    fun i _ => decode_encode i⟩

/-- Settles O2: four encodings, and one illegal word of each kind. -/
theorem sampleWordsDecode : Obligations.SampleWordsDecode :=
  ⟨decode_encode .scrypt, decode_encode .pbkdf2Sha256, decode_encode .sha256Init, decode_encode .detect,
    rfl, rfl⟩

/-! ## Illegal words -/

/-- A word that 30_encoding.md R72 calls illegal: a bit of RSV is set, or OP is above 0x0A. -/
def IllegalWord (w : Word) : Prop := w >>> 8 ≠ 0 ∨ 0x0A < w.toNat % 256

theorem not_illegalWord_encode (i : Instr) : ¬ IllegalWord (encode i) := by
  unfold IllegalWord
  cases i <;> decide

theorem decode_of_illegalWord {w : Word} (h : IllegalWord w) : ∃ e, decode w = .error e := by
  cases hd : decode w with
  | error e => exact ⟨e, rfl⟩
  | ok i => exact absurd (eq_encode_of_decode hd ▸ h) (not_illegalWord_encode i)

/-- The core's turn with an illegal word in flight (30_encoding.md R68). -/
theorem step_of_illegalWord {s : State} (h : IllegalWord s.latch.cmd) (busy : s.status.busy = true)
    (turn : s.nextTurn = .core) : step s = .next (s.popTurn.raiseError .illegalOp .cmd) := by
  obtain ⟨e, hd⟩ := decode_of_illegalWord h
  have hd' : decode s.popTurn.latch.cmd = .error e := hd
  rw [step_core turn, coreStep_of_busy (s := s.popTurn) busy, State.complete, hd']

theorem opField_eq_setWidth (w : Word) : opField w = w.setWidth 8 :=
  BitVec.eq_of_toNat_eq (by rw [opField, BitVec.extractLsb'_toNat, BitVec.toNat_setWidth, Nat.shiftRight_zero])

/-- Taking an error records the code and the operand, and nothing else changes (60_exceptions.md R115). -/
theorem raiseError_failsWith (s : State) (code : ErrCode) (field : ErrField) :
    FailsWith s (s.raiseError code field) code field where
  busy := rfl
  done := rfl
  err := rfl
  path := rfl
  op := opField_eq_setWidth _
  field := rfl
  frame := { ops := rfl, ctrl := rfl, cmd := rfl, latch := rfl, overrun := rfl, busyAcc := rfl, busErr := rfl,
             build := rfl, platform := rfl, resets := rfl, draws := rfl, host := rfl, sched := rfl }
  h := rfl
  cap := rfl
  scratch := rfl
  dbuf := fun _ => rfl

/-- Settles O3: an issue does not look at the word, and an illegal word decodes to no command. -/
theorem illegalWordCompletesWithIllegalOp : Obligations.IllegalWordCompletesWithIllegalOp := by
  intro s w illegal
  refine ⟨fun idle => ?_, ?_⟩
  · rw [hostWrite_cmd_of_idle idle]
    exact ⟨rfl, rfl, rfl⟩
  · rintro busy rfl turn
    exact ⟨_, step_of_illegalWord illegal busy turn, raiseError_failsWith s.popTurn .illegalOp .cmd⟩

end Sys2Proof.Machine
end

section
/-! PROOF. BNE, the one host statement that can stop the model, and the labels of a program (30_encoding.md R74;
log 9). -/

namespace Sys2Proof.Machine

/-! ## BNE -/

section
variable {s : State} {x : Var} {mask value : Word} {l : Label}

theorem runBne_of_unread (hx : s.host.var? x = none) :
    s.runBne x mask value l = .fault (.hostUnreadVariable x) := by
  rw [State.runBne, hx]

variable {v : Word} (hx : s.host.var? x = some v)
include hx

theorem runBne_of_eq (heq : v &&& mask = value) : s.runBne x mask value l = .next s.hostNext := by
  rw [State.runBne, hx]
  exact if_pos heq

theorem runBne_of_ne (hne : v &&& mask ≠ value) {i : Nat} (hl : labelIndex? s.host.prog l = some i) :
    s.runBne x mask value l = .next (s.hostAt i) := by
  rw [State.runBne, hx, hl]
  exact if_neg hne

theorem runBne_of_ne_unknown (hne : v &&& mask ≠ value) (hl : labelIndex? s.host.prog l = none) :
    s.runBne x mask value l = .fault (.hostUnknownLabel l) := by
  rw [State.runBne, hx, hl]
  exact if_neg hne

end

/-- Settles O55: the four cases of a BNE. -/
theorem branchFollowsMaskedComparison : Obligations.BranchFollowsMaskedComparison := fun _ _ _ _ _ =>
  ⟨fun _ hx => ⟨runBne_of_eq hx, fun hne _ => runBne_of_ne hx hne, runBne_of_ne_unknown hx⟩, runBne_of_unread⟩

/-! ## Stops -/

/-- A BNE stops for an unknown label only where the program does not hold its label. -/
theorem labelIndex?_of_runBne_fault {s : State} {x : Var} {mask value : Word} {l l' : Label}
    (h : s.runBne x mask value l = .fault (.hostUnknownLabel l')) : labelIndex? s.host.prog l = none := by
  cases hx : s.host.var? x with
  | none => cases (runBne_of_unread hx).symm.trans h
  | some v =>
    by_cases hv : v &&& mask = value
    · cases (runBne_of_eq hx hv).symm.trans h
    · cases hl : labelIndex? s.host.prog l with
      | none => rfl
      | some i => cases (runBne_of_ne hx hv hl).symm.trans h

/-- The core never stops (10_state.md R39). -/
theorem coreStep_ne_fault (s : State) (f : Fault) : s.coreStep ≠ .fault f := by
  cases hb : s.status.busy with
  | false => rw [coreStep_of_idle hb]; nofun
  | true =>
    rw [coreStep_of_busy hb]
    rcases complete_cases s with ⟨_, _, -, -, e⟩ | ⟨_, _, _, _, _, _, _, -, -, e⟩ <;> rw [e] <;> nofun

/-- A step that stops for an unknown label is a host's BNE to a label that its program does not hold. -/
theorem bne_of_step_fault {s : State} {l : Label} (h : step s = .fault (.hostUnknownLabel l)) :
    ∃ x mask value l', .bne x mask value l' ∈ s.host.prog ∧ labelIndex? s.host.prog l' = none := by
  cases turn : s.nextTurn with
  | reset => rw [step, turn] at h; cases h
  | core => exact absurd ((step_core turn).symm.trans h) (coreStep_ne_fault _ _)
  | host =>
    cases hst : s.hostStmt? with
    | none => cases (step_host_ended turn hst).symm.trans h
    | some st =>
      rw [step_host turn hst] at h
      cases st with
      | bne x mask value l' =>
        exact ⟨x, mask, value, l', List.mem_of_getElem? hst, labelIndex?_of_runBne_fault (s := s.popTurn) h⟩
      | write | read | label => cases h

/-! ## Declared labels -/

theorem labelIndex?_eq_none_iff {prog : List Stmt} {l : Label} : labelIndex? prog l = none ↔ .label l ∉ prog := by
  rw [labelIndex?, List.findIdx?_eq_none_iff]
  constructor
  · exact fun h hl => beq_eq_false_iff_ne.1 (h _ hl) rfl
  · intro h st hst
    exact beq_eq_false_iff_ne.2 fun e => h (e ▸ hst)

theorem mem_programLabels {prog : List Stmt} {l : Label} : l ∈ programLabels prog ↔ .label l ∈ prog := by
  rw [programLabels, List.mem_filterMap]
  constructor
  · rintro ⟨st, hst, hl⟩
    cases st with
    | label => cases hl; exact hst
    | write | read | bne => cases hl
  · exact fun h => ⟨_, h, rfl⟩

theorem label_mem_of_branchesDeclared {prog : List Stmt} (h : branchesDeclared prog = true) {x : Var}
    {mask value : Word} {l : Label} (hb : .bne x mask value l ∈ prog) : .label l ∈ prog :=
  mem_programLabels.1 (List.contains_iff_mem.1 (List.all_eq_true.1 h _ hb))

theorem branchesDeclared_of_programWf {prog : List Stmt} (h : programWf prog = true) :
    branchesDeclared prog = true := by
  have hwf : prog.all (Stmt.wf (programLabels prog)) = true := (Bool.and_eq_true_iff.1 h).1
  refine List.all_eq_true.2 fun st hst => ?_
  cases st with
  | bne => exact List.all_eq_true.1 hwf _ hst
  | write | read | label => rfl

/-- Settles O56: only a BNE to a label outside the program stops for an unknown label. -/
theorem wellFormedProgramNeverBranchesAstray : Obligations.WellFormedProgramNeverBranchesAstray := by
  refine ⟨fun s l declared stops => ?_, fun _ => branchesDeclared_of_programWf⟩
  obtain ⟨x, mask, value, l', hb, hnone⟩ := bne_of_step_fault stops
  exact labelIndex?_eq_none_iff.1 hnone (label_mem_of_branchesDeclared declared hb)

end Sys2Proof.Machine
end

section
/-! PROOF. How the host runs the statements of a line that stands in its program: what they do to the state is said
once, apart from the host's position and the turns they take (30_encoding.md R74, R75; log 1). -/

namespace Sys2Proof.Machine

/-- The state with the host at `pc` of its program and the turns `sched` to come. -/
def State.atPosition (s : State) (pc : Nat) (sched : List Turn) : State :=
  { s with host := { s.host with pc := pc }, sched := sched }

/-- The statement takes `u` to `w`, wherever the host stands in its program and whatever turns are to come. -/
structure StmtTakes (st : Stmt) (u w : State) : Prop where
  prog : w.host.prog = u.host.prog
  runs : ∀ pc sched, (u.atPosition pc sched).runStmt st = .next (w.atPosition (pc + 1) sched)

/-- The statements, one after the other, take `u` to `w`. -/
inductive StmtsTake : List Stmt → State → State → Prop
  | nil (u : State) : StmtsTake [] u u
  | cons {st : Stmt} {sts : List Stmt} {u v w : State} (first : StmtTakes st u v) (others : StmtsTake sts v w) :
      StmtsTake (st :: sts) u w

theorem StmtsTake.snoc {sts : List Stmt} {st : Stmt} {u v w : State} (h : StmtsTake sts u v)
    (last : StmtTakes st v w) : StmtsTake (sts ++ [st]) u w := by
  induction h with
  | nil => exact .cons last (.nil w)
  | cons first _ ih => exact .cons first (ih last)

/-- A turn of the host on the statement at its position. -/
theorem step_atPosition {st : Stmt} {u w : State} (h : StmtTakes st u w) {before after : List Stmt}
    (hprog : u.host.prog = before ++ st :: after) (sched : List Turn) :
    step (u.atPosition before.length (.host :: sched)) = .next (w.atPosition (before.length + 1) sched) := by
  have hst : (u.atPosition before.length (.host :: sched)).hostStmt? = some st := by
    show u.host.prog[before.length]? = some st
    rw [hprog, List.getElem?_append_right (Nat.le_refl _), Nat.sub_self]
    rfl
  exact (step_host rfl hst).trans (h.runs before.length sched)

theorem run_atPosition {sts : List Stmt} {u w : State} (h : StmtsTake sts u w) {before after : List Stmt}
    (hprog : u.host.prog = before ++ sts ++ after) (rest : List Turn) :
    Host.Core.run core sts.length (u.atPosition before.length (List.replicate sts.length .host ++ rest)) =
      .next (w.atPosition (before.length + sts.length) rest) := by
  induction h generalizing before with
  | nil => rfl
  | @cons st sts u v w first _ ih =>
    have hprog' : v.host.prog = (before ++ [st]) ++ sts ++ after := by
      rw [first.prog, hprog]; simp
    have hstep := step_atPosition first (by rw [hprog, List.append_assoc, List.cons_append])
      (List.replicate sts.length .host ++ rest)
    have hrun := ih hprog'
    rw [List.length_append, List.length_singleton, Nat.add_assoc, Nat.add_comm 1] at hrun
    exact (run_succ_of_next _ hstep).trans hrun

/-- A host with the statements at its position and a turn for each of them runs them. -/
theorem run_stmts {sts : List Stmt} {s w : State} (h : StmtsTake sts s w) {before after : List Stmt}
    {rest : List Turn} (hprog : s.host.prog = before ++ sts ++ after) (hpc : s.host.pc = before.length)
    (hsched : s.sched = List.replicate sts.length .host ++ rest) :
    Host.Core.run core sts.length s = .next (w.atPosition (before.length + sts.length) rest) := by
  have hs : s.atPosition before.length (List.replicate sts.length .host ++ rest) = s := by
    rw [← hpc, ← hsched]; rfl
  have hrun := run_atPosition h hprog rest
  rwa [hs] at hrun

/-! ## Register writes -/

theorem writeReg_cmd (s : State) (w : Word) : s.writeReg .cmd w = s.writeCmd w := rfl

theorem noteBusFault_of_legal (s : State) {size : Size} {off : Offset} (h : legalAccess size off = true) :
    s.noteBusFault size off = s := by
  rw [State.noteBusFault, h]
  rfl

theorem busWrite_reg (s : State) (r : Reg) (v : Word) :
    s.busWrite .b32 (regOffset r).toNat v = s.writeReg r v := by
  have legal := (legalAccess_b32 (regOffset r)).2 (regOffset_bounds r).1
  rw [busWrite_toNat, hostWrite_reg, noteBusFault_of_legal _ legal]

theorem runStmt_wr32 (s : State) (r : Reg) (v : Word) : s.runStmt (wr32 r v) = .next (s.writeReg r v).hostNext := by
  rw [wr32, State.runStmt, busWrite_reg]

end Sys2Proof.Machine
end

section
/-! PROOF. A command line: the writes of its operands, then the write that issues it (30_encoding.md R75). -/

namespace Sys2Proof.Machine

/-- The operand registers that a command line writes, in the order of its row of 30_encoding.md R75. -/
def operandWrites (line : Line) : List (OpReg × Word) :=
  match line with
  | .sha256Compress s => [(.src0, s)]
  | .sha256Digest s n d => [(.src0, s), (.len0, n), (.dst, d)]
  | .hmacSha256 k kn m mn d => [(.src0, k), (.len0, kn), (.src1, m), (.len1, mn), (.dst, d)]
  | .pbkdf2Sha256 p pn s sn c dk d =>
    [(.src0, p), (.len0, pn), (.src1, s), (.len1, sn), (.iter, c), (.len2, dk), (.dst, d)]
  | .salsa208 s d | .blockmix s d | .romix s d => [(.src0, s), (.dst, d)]
  | .scrypt s d => [(.src0, s), (.len0, 80), (.dst, d), (.len2, 32)]
  | .nop | .sha256Init | .detect | .stmt _ | .wait _ _ | .ack | .load _ _ | .dump _ _ _ => []

/-- The statement of an operand write. -/
def writeStmt (e : OpReg × Word) : Stmt := wr32 (.op e.1) e.2

/-- The operand registers after a write. -/
def OpRegs.write (o : OpRegs) (e : OpReg × Word) : OpRegs := o.set e.1 e.2

theorem expandLine_of_command {line : Line} {i : Instr} (h : lineCommand? line = some i) :
    expandLine line = (operandWrites line).map writeStmt ++ [wrCmd i] := by
  cases line <;> cases h <;> rfl

theorem foldl_write_operandWrites (line : Line) (o : OpRegs) :
    (operandWrites line).foldl OpRegs.write o = lineOperands line o := by
  cases line <;> rfl

theorem writeStmt_takes (s : State) (e : OpReg × Word) :
    StmtTakes (writeStmt e) s { s with ops := s.ops.write e } :=
  ⟨rfl, fun _ _ => runStmt_wr32 _ _ _⟩

theorem operandWrites_take (s : State) (ws : List (OpReg × Word)) :
    StmtsTake (ws.map writeStmt) s { s with ops := ws.foldl OpRegs.write s.ops } := by
  induction ws generalizing s with
  | nil => exact .nil s
  | cons e ws ih => exact .cons (writeStmt_takes s e) (ih _)

theorem wrCmd_takes {s : State} (idle : s.status.busy = false) (o : OpRegs) (i : Instr) :
    StmtTakes (wrCmd i) { s with ops := o } (s.issueWith o i) where
  prog := rfl
  runs pc sched := by
    rw [wrCmd, runStmt_wr32, writeReg_cmd, writeCmd_of_idle (s := State.atPosition { s with ops := o } pc sched) idle]
    rfl

/-- The statements of a command line issue its command with its operands. -/
theorem commandLine_takes {s : State} {line : Line} {i : Instr} (h : lineCommand? line = some i)
    (idle : s.status.busy = false) :
    StmtsTake (expandLine line) s (s.issueWith (lineOperands line s.ops) i) := by
  rw [expandLine_of_command h, ← foldl_write_operandWrites]
  exact (operandWrites_take s (operandWrites line)).snoc (wrCmd_takes idle _ i)

/-- Settles O57: the line's statements are run, and what they do is the issue of its command. -/
theorem commandLinesIssueTheirCommand : Obligations.CommandLinesIssueTheirCommand := by
  intro s line i before after rest hline idle hprog hpc hsched
  exact ⟨_, run_stmts (commandLine_takes hline idle) hprog hpc hsched, rfl, rfl, rfl, rfl, rfl, rfl, rfl, rfl,
    rfl, rfl, rfl, rfl, fun _ => rfl⟩

end Sys2Proof.Machine
end

section
/-! PROOF. LOAD and DUMP: byte accesses to DBUF one after the other, in the window and past it (30_encoding.md R75;
20_memory.md R57). -/

namespace Sys2Proof.Machine

/-! ## One byte -/

/-- Byte `a` of DBUF has an offset in the DBUF half of the window (20_memory.md R48, R50). -/
theorem exists_offset_dbuf {a : Nat} (h : a < 1024) :
    ∃ off : Offset, dbufBase + a = off.toNat ∧ 0x400 ≤ off.toNat ∧ off.toNat - 0x400 = a := by
  have hoff : (BitVec.ofNat 11 (dbufBase + a)).toNat = 0x400 + a := by
    rw [BitVec.toNat_ofNat, dbufBase]
    omega
  refine ⟨BitVec.ofNat 11 (dbufBase + a), ?_⟩
  rw [hoff, dbufBase]
  omega

theorem past_window {a : Nat} (h : 1024 ≤ a) : 2048 ≤ dbufBase + a := by
  rw [dbufBase]
  omega

section
variable {s : State} (idle : s.status.busy = false)
include idle

theorem busWrite_b8_dbuf {a : Nat} (h : a < 1024) (v : Word) :
    s.busWrite .b8 (dbufBase + a) v = s.memWrite a [v.setWidth 8] := by
  obtain ⟨off, hoff, hd, ha⟩ := exists_offset_dbuf h
  rw [hoff, busWrite_toNat, noteBusFault_of_legal _ ((legalAccess_b8 off).2 hd), hostWrite_b8_idle idle hd, ha]

theorem busRead_b8_dbuf {a : Nat} (h : a < 1024) :
    s.busRead .b8 (dbufBase + a) = (s, (s.dbufByte a).setWidth 32) := by
  obtain ⟨off, hoff, hd, ha⟩ := exists_offset_dbuf h
  rw [hoff, busRead_toNat, noteBusFault_of_legal _ ((legalAccess_b8 off).2 hd), hostRead_b8_idle idle hd, ha]

theorem wr8Dbuf_takes {a : Nat} (h : a < 1024) (b : Byte) : StmtTakes (wr8Dbuf a b) s (s.memWrite a [b]) where
  prog := rfl
  runs pc sched := by
    have hb : (b.setWidth 32).setWidth 8 = b := by simp
    rw [wr8Dbuf, State.runStmt, busWrite_b8_dbuf (s := s.atPosition pc sched) idle h, hb]
    rfl

end

theorem wr8Dbuf_takes_past (s : State) {a : Nat} (h : 1024 ≤ a) (b : Byte) : StmtTakes (wr8Dbuf a b) s s where
  prog := rfl
  runs pc sched := by
    rw [wr8Dbuf, State.runStmt, busWrite_outside _ _ _ (past_window h)]
    rfl

theorem rd8Dbuf_takes {s : State} (idle : s.status.busy = false) {a : Nat} (h : a < 1024) (x : Var) :
    StmtTakes (rd8Dbuf a x) s (s.setVar x ((s.dbufByte a).setWidth 32)) where
  prog := rfl
  runs pc sched := by
    rw [rd8Dbuf, State.runStmt, busRead_b8_dbuf (s := s.atPosition pc sched) idle h]
    rfl

/-- Past the window a read draws a free value (log 18). -/
theorem rd8Dbuf_takes_past (s : State) {a : Nat} (h : 1024 ≤ a) (x : Var) :
    StmtTakes (rd8Dbuf a x) s (({ s with draws := s.draws + 1 } : State).setVar x
      (outsideValue .b8 (Config.outsideDraw s.draws))) where
  prog := rfl
  runs pc sched := by
    rw [rd8Dbuf, State.runStmt, busRead_outside _ _ (past_window h)]
    rfl

/-! ## LOAD -/

/-- The statements of a LOAD store the bytes of its string that lie in DBUF. -/
theorem loadBytes_take {s : State} (idle : s.status.busy = false) (o : Nat) (hex : Bytes) :
    StmtsTake (loadBytes o hex) s (s.memWrite o (hex.take (1024 - o))) := by
  induction hex generalizing s o with
  | nil => rw [List.take_nil]; exact .nil s
  | cons b hex ih =>
    rcases Nat.lt_or_ge o 1024 with h | h
    · rw [show 1024 - o = 1024 - (o + 1) + 1 by omega, List.take_succ_cons]
      exact .cons (wr8Dbuf_takes idle h b) (ih (s := s.memWrite o [b]) idle (o + 1))
    · have hrest := ih idle (o + 1)
      rw [Nat.sub_eq_zero_of_le (by omega), List.take_zero] at hrest ⊢
      exact .cons (wr8Dbuf_takes_past s h b) hrest

/-- Settles O58: the LOAD is one write to DBUF, of the bytes of its string that lie there. -/
theorem loadStoresItsBytes : Obligations.LoadStoresItsBytes := by
  intro s o hex before after rest idle hprog hpc hsched
  have hrun := run_stmts (loadBytes_take idle o hex) hprog hpc (by rwa [loadBytes_length])
  rw [loadBytes_length] at hrun
  refine ⟨_, ⟨Memory.writeBytes s.dbuf o (hex.take (1024 - o)), rfl⟩, hrun, fun k hk hin => ?_, fun a ha => ?_⟩
  · have hk' : k < (hex.take (1024 - o)).length := by rw [List.length_take]; omega
    exact (dbufByte_memWrite_inside s o _ hk').trans List.getElem_take
  · refine dbufByte_memWrite_outside s o _ ?_
    rw [List.length_take]
    omega

/-! ## DUMP -/

/-- Of the variables from `v` on, the first `n` hold the bytes of DBUF from `o` on as far as DBUF reaches, and every
other variable is as the host of `s` has it. -/
structure Dumped (s : State) (o n v : Nat) (vars : List (Nat × Word)) : Prop where
  inside : ∀ k, k < n → o + k < 1024 → storeGet? vars (v + k) = some ((s.dbufByte (o + k)).setWidth 32)
  outside : ∀ x, x < v ∨ v + n ≤ x → storeGet? vars x = storeGet? s.host.vars x

theorem dumped_zero (s : State) (o v : Nat) : Dumped s o 0 v s.host.vars := ⟨nofun, fun _ _ => rfl⟩

theorem dumped_succ {s : State} {o n v : Nat} {vars : List (Nat × Word)} (h : Dumped s o n v vars) {w : Word}
    (hw : o + n < 1024 → w = (s.dbufByte (o + n)).setWidth 32) :
    Dumped s o (n + 1) v (storeSet vars (v + n) w) where
  inside k hk hin := by
    rcases Nat.lt_succ_iff_lt_or_eq.1 hk with hlt | rfl
    · rw [storeGet?_set_ne _ _ (by omega), h.inside k hlt hin]
    · rw [storeGet?_set_self, hw hin]
  outside x hx := by rw [storeGet?_set_ne _ _ (by omega), h.outside x (by omega)]

/-- The statements of a DUMP change the host's variables, and the count of draws where it runs past the window. -/
theorem dump_takes {s : State} (idle : s.status.busy = false) (o n v : Nat) :
    ∃ vars d, (o + n ≤ 1024 → d = s.draws) ∧ Dumped s o n v vars ∧
      StmtsTake (expandLine (.dump o n v)) s (s.withHost { s.host with vars := vars } d) := by
  induction n with
  | zero => exact ⟨s.host.vars, s.draws, fun _ => rfl, dumped_zero s o v, .nil s⟩
  | succ n ih =>
    obtain ⟨vars, d, hd, hvars, htake⟩ := ih
    have hsplit : expandLine (.dump o (n + 1) v) = expandLine (.dump o n v) ++ [rd8Dbuf (o + n) (v + n)] := by
      simp [expandLine, List.range_succ]
    rw [hsplit]
    rcases Nat.lt_or_ge (o + n) 1024 with h | h
    · exact ⟨_, d, fun _ => hd (by omega), dumped_succ hvars fun _ => rfl,
        htake.snoc (rd8Dbuf_takes (s := s.withHost { s.host with vars := vars } d) idle h (v + n))⟩
    · exact ⟨_, d + 1, fun _ => by omega, dumped_succ hvars fun _ => by omega,
        htake.snoc (rd8Dbuf_takes_past (s.withHost { s.host with vars := vars } d) h (v + n))⟩

/-- Settles O60: the DUMP is its reads, one after the other. -/
theorem dumpReadsItsBytes : Obligations.DumpReadsItsBytes := by
  intro s o n v before after rest idle hprog hpc hsched
  obtain ⟨vars, d, hd, hvars, htake⟩ := dump_takes idle o n v
  have hlen : (expandLine (.dump o n v)).length = n := by simp [expandLine]
  have hrun := run_stmts htake hprog hpc (by rwa [hlen])
  rw [hlen] at hrun
  exact ⟨_, ⟨vars, d, hd, rfl⟩, hrun, hvars.inside, hvars.outside⟩

end Sys2Proof.Machine
end

section
/-! PROOF. The two ways a command completes, in the terms of the claims about single commands: what an error-free
completion records and writes to DBUF, and a failing check (10_state.md R39; 60_exceptions.md R115). -/

namespace Sys2Proof.Machine

/-- A commit block changes nothing that no completion writes, so its completion records an error-free end. -/
theorem committed_completesOk {s : State} {op : Byte} (hop : opField s.latch.cmd = op) (h : Vector Word 8) (cap : Cap)
    (a : Nat) (v : Bytes) (w : Scratch) (path : Bool) :
    CompletesOk s ((committed s h cap a v w).completeOk path) op path where
  busy := rfl
  done := rfl
  err := rfl
  path := rfl
  errinfo := by rw [← hop]; rfl
  frame := { ops := rfl, ctrl := rfl, cmd := rfl, latch := rfl, overrun := rfl, busyAcc := rfl, busErr := rfl,
             build := rfl, platform := rfl, resets := rfl, draws := rfl, host := rfl, sched := rfl }

/-- The bytes of a commit block read back where it wrote them. -/
theorem committed_memRead (s : State) (h : Vector Word 8) (cap : Cap) (a : Nat) {v : Bytes} {n : Nat}
    (hv : v.length = n) (w : Scratch) (path : Bool) :
    ((committed s h cap a v w).completeOk path).memRead a n = v := by
  subst hv
  exact memRead_memWrite_same s a v

theorem committed_dbufSameOutside (s : State) (h : Vector Word 8) (cap : Cap) (a : Nat) {v : Bytes} {n : Nat}
    (hv : v.length = n) (w : Scratch) (path : Bool) :
    DbufSameOutside s ((committed s h cap a v w).completeOk path) a n := by
  subst hv
  exact dbufSameOutside_memWrite s a v

/-- A command fails with its first failing check (60_exceptions.md R122). -/
theorem fails_of_firstFailing {i : Instr} {s commit : State} {cs : List Check} {path : Bool} {c : Check}
    (he : exec i s = s.finish cs commit path) (hc : firstFailing cs = some c) : Fails i s c.code c.field :=
  ⟨_, he.trans (finish_of_fail hc commit path), raiseError_failsWith s c.code c.field⟩

end Sys2Proof.Machine
end

section
/-! PROOF. The three SHA-256 commands (40_sha256.md R82 to R84). -/

namespace Sys2Proof.Machine

/-! ## The chaining registers: SHA256_INIT and SHA256_COMPRESS -/

/-- The error-free completion of a command whose commit block writes H alone. -/
def State.completeWithH (s : State) (h : Vector Word 8) : State :=
  (committed s h s.cap 0 [] s.scratch).completeOk false

@[simp] theorem completeWithH_h (s : State) (h : Vector Word 8) : (s.completeWithH h).h = h := rfl
@[simp] theorem completeWithH_dbuf (s : State) (h : Vector Word 8) : (s.completeWithH h).dbuf = s.dbuf := rfl
@[simp] theorem completeWithH_resets (s : State) (h : Vector Word 8) : (s.completeWithH h).resets = s.resets := rfl

theorem exec_sha256Init_eq (s : State) : exec .sha256Init s = .next (s.completeWithH iv) :=
  finish_of_pass (s := s) (cs := []) nofun _ _

theorem exec_sha256Compress_of_inRange {s : State} (h : s.src0 + 64 ≤ 1024) :
    exec .sha256Compress s = .next (s.completeWithH (compress s.h (s.source 64))) := by
  refine finish_of_pass (fun c hc => ?_) _ _
  obtain rfl := List.mem_singleton.1 hc
  exact (checkSrc0_pass s 64).2 h

/-- Settles O31: SHA256_INIT has no check, and its commit block writes IV to H alone. -/
theorem sha256InitLoadsInitialValue : Obligations.Sha256InitLoadsInitialValue := fun s hcmd =>
  ⟨_, exec_sha256Init_eq s, committed_completesOk (by rw [hcmd]; rfl) .., rfl, rfl, rfl, fun _ => rfl⟩

/-- Settles O32: the check of SRC0 passes and the commit block writes H alone, or the check fails. -/
theorem sha256CompressChainsOneBlock : Obligations.Sha256CompressChainsOneBlock := by
  refine fun s hcmd => ⟨fun inRange => ?_, fun outside => ?_⟩
  · exact ⟨_, exec_sha256Compress_of_inRange inRange, committed_completesOk (by rw [hcmd]; rfl) ..,
      rfl, rfl, rfl, fun _ => rfl⟩
  · have hfail : ¬ (s.checkSrc0 Config.shaBlock).pass = true := by
      rw [checkSrc0_pass]; exact Nat.not_le.2 outside
    exact fails_of_firstFailing (exec_sha256Compress s) (firstFailing_cons_fail _ hfail)

/-! ## SHA256_DIGEST -/

/-- Settles O33: both checks pass and the digest is the commit block's only write, or the first check that fails
is that of SRC0 or, SRC0 being in range, that of DST. -/
theorem sha256DigestWritesDigest : Obligations.Sha256DigestWritesDigest := by
  rintro s _ _ _ hcmd rfl rfl rfl
  have hsrc : (s.checkSrc0 s.len0).pass = true ↔ s.src0 + s.len0 ≤ 1024 := checkSrc0_pass s s.len0
  have hdst : (s.checkDst Config.hlen).pass = true ↔ s.dst + 32 ≤ 1024 := checkDst_pass s Config.hlen
  refine ⟨fun srcIn dstIn => ?_, fun srcOut => ?_, fun srcIn dstOut => ?_⟩
  · have hpass : ∀ c ∈ [s.checkSrc0 s.len0, s.checkDst Config.hlen], c.pass = true := by
      simp only [List.forall_mem_cons]
      exact ⟨hsrc.2 srcIn, hdst.2 dstIn, nofun⟩
    have hlen : (sha256 s.operand0).length = 32 := sha256_length _
    exact ⟨(committed s s.h s.cap s.dst (sha256 s.operand0) s.scratch).completeOk false,
      finish_of_pass hpass _ _, committed_completesOk (by rw [hcmd]; rfl) .., committed_memRead _ _ _ _ hlen _ _,
      committed_dbufSameOutside _ _ _ _ hlen _ _, rfl, rfl, rfl⟩
  · have hfail := hsrc.not.2 (Nat.not_le.2 srcOut)
    exact fails_of_firstFailing (exec_sha256Digest s) (firstFailing_cons_fail _ hfail)
  · have hfail := hdst.not.2 (Nat.not_le.2 dstOut)
    exact fails_of_firstFailing (exec_sha256Digest s)
      ((firstFailing_cons_pass _ (hsrc.2 srcIn)).trans (firstFailing_cons_fail _ hfail))

end Sys2Proof.Machine
end

section
/-! PROOF. SHA-256 padding, and the digest computed block by block by the commands (40_sha256.md R80 to R83). -/

namespace Sys2Proof.Machine

/-! ## Padding -/

theorem padZeros_fills_block (n : Nat) : (n + 1 + padZeros n + 8) % 64 = 0 := by
  rw [padZeros]; omega

theorem padZeros_lt (n : Nat) : padZeros n < 64 := by
  rw [padZeros]; omega

/-- Two numbers of zeros that fill whole blocks differ by a multiple of 64, so the one below 64 is the least. -/
theorem padZeros_le {n k : Nat} (h : (n + 1 + k + 8) % 64 = 0) : padZeros n ≤ k := by
  have hfills := padZeros_fills_block n
  have hlt := padZeros_lt n
  omega

theorem pad_length (m : Bytes) : (pad m).length = m.length + 1 + padZeros m.length + 8 := by
  simp [pad]; omega

theorem pad_length_mod (m : Bytes) : (pad m).length % 64 = 0 := by
  rw [pad_length, padZeros_fills_block]

/-- Settles O44: with fewer than 64 zeros, the padded length is the least multiple of 64 that holds the message and
9 bytes more. -/
theorem paddingFillsWholeBlocks : Obligations.PaddingFillsWholeBlocks := by
  intro m
  have hlength := pad_length m
  have hblocks := pad_length_mod m
  have hlt := padZeros_lt m.length
  exact ⟨padZeros m.length, rfl, padZeros_fills_block _, fun _ => padZeros_le, hblocks, by omega, by omega⟩

/-! ## Blocks of a message in DBUF -/

theorem slice_memRead (s : State) {a n l : Nat} (h : a + n ≤ l) :
    slice (s.memRead 0 l) a (a + n) = s.memRead a n := by
  refine List.ext_getElem (by simp; omega) fun k _ _ => ?_
  simp [slice]

/-- The chaining value after the first `k` blocks of 64 bytes from DBUF byte 0. -/
def chainingValue (s : State) (k : Nat) : Vector Word 8 :=
  (List.range k).foldl (fun h b => compress h (s.memRead (64 * b) 64)) iv

theorem chainingValue_succ (s : State) (k : Nat) :
    chainingValue s (k + 1) = compress (chainingValue s k) (s.memRead (64 * k) 64) := by
  simp only [chainingValue, List.range_succ, List.foldl_append, List.foldl_cons, List.foldl_nil]

/-- SHA-256 of a message whose padding stands at DBUF byte 0 (40_sha256.md R81). -/
theorem sha256_eq_digestBytes_chainingValue {s : State} {m : Bytes} (h : s.memRead 0 (pad m).length = pad m) :
    sha256 m = digestBytes (chainingValue s ((pad m).length / 64)) := by
  unfold sha256 chainingValue
  refine congrArg digestBytes (List.foldl_ext _ _ _ fun _ b hb => ?_)
  have hb : 64 * b + 64 ≤ (pad m).length := by rw [List.mem_range] at hb; omega
  rw [← slice_memRead s hb, h]

/-! ## One command per block -/

/-- The state after SHA256_INIT is issued and completes. -/
def State.afterInit (s : State) : State := (s.issueWith s.ops .sha256Init).completeWithH iv

/-- The state with SHA256_COMPRESS of block `k` issued. -/
def State.issueBlock (s : State) (k : Nat) : State :=
  s.issueWith { s.ops with src0 := BitVec.ofNat 32 (64 * k) } .sha256Compress

/-- The state after SHA256_COMPRESS of block `k` is issued and completes. -/
def State.afterBlock (s : State) (k : Nat) : State :=
  (s.issueBlock k).completeWithH (compress s.h ((s.issueBlock k).source 64))

/-- The state after SHA256_INIT and SHA256_COMPRESS of the first `k` blocks. -/
def State.afterBlocks (s : State) (k : Nat) : State :=
  match k with
  | 0 => s.afterInit
  | k + 1 => (s.afterBlocks k).afterBlock k

/-- The offset of a block in DBUF fits the register SRC0. -/
theorem issueBlock_src0 (s : State) {k : Nat} (h : 64 * k + 64 ≤ 1024) : (s.issueBlock k).src0 = 64 * k :=
  Nat.mod_eq_of_lt (by omega)

theorem issueBlock_source (s : State) {k : Nat} (h : 64 * k + 64 ≤ 1024) :
    (s.issueBlock k).source 64 = s.memRead (64 * k) 64 := by
  rw [State.source, issueBlock_src0 s h]
  rfl

theorem exec_issueBlock (s : State) {k : Nat} (h : 64 * k + 64 ≤ 1024) :
    exec .sha256Compress (s.issueBlock k) = .next (s.afterBlock k) :=
  exec_sha256Compress_of_inRange (by rwa [issueBlock_src0 s h])

/-- No command of the run writes DBUF. -/
theorem afterBlocks_memRead (s : State) (k a n : Nat) : (s.afterBlocks k).memRead a n = s.memRead a n := by
  induction k with
  | zero => rfl
  | succ k ih => exact ih

theorem afterBlocks_h (s : State) {k : Nat} (h : 64 * k ≤ 1024) : (s.afterBlocks k).h = chainingValue s k := by
  induction k with
  | zero => rfl
  | succ k ih =>
    have hk : 64 * k + 64 ≤ 1024 := h
    rw [State.afterBlocks, State.afterBlock, completeWithH_h, issueBlock_source _ hk, afterBlocks_memRead,
      ih (by omega), chainingValue_succ]

/-- Settles O54: block by block, H holds the chaining value that SHA-256 of the message has there. -/
theorem blockByBlockHashIsTheDigest : Obligations.BlockByBlockHashIsTheDigest := by
  intro s m fits hpad
  refine ⟨s.afterBlocks, exec_sha256Init_eq _, fun k hk => exec_issueBlock _ (by omega), ?_⟩
  rw [afterBlocks_h s (by omega), sha256_eq_digestBytes_chainingValue hpad]

end Sys2Proof.Machine
end

section
/-! PROOF. The key block of HMAC-SHA256, and PBKDF2 as the first bytes of one sequence of blocks
(41_hmac_pbkdf2.md R85, R87). -/

namespace Sys2Proof.Machine

/-! ## HMAC: the key block -/

theorem hmacKeyBlock_of_le {key : Bytes} (h : key.length ≤ 64) :
    hmacKeyBlock key = key ++ zeros (64 - key.length) := by
  simp only [hmacKeyBlock, if_neg (Nat.not_lt.2 h)]

theorem hmacKeyBlock_of_lt {key : Bytes} (h : 64 < key.length) :
    hmacKeyBlock key = sha256 key ++ zeros (64 - (sha256 key).length) := by
  simp only [hmacKeyBlock, if_pos h]

theorem hmacKeyBlock_append_zeros {key : Bytes} {k : Nat} (h : key.length + k ≤ 64) :
    hmacKeyBlock (key ++ List.replicate k 0) = hmacKeyBlock key := by
  have hlen : (key ++ List.replicate k 0).length = key.length + k := by simp
  have hzeros : k + (64 - (key.length + k)) = 64 - key.length := by omega
  rw [hmacKeyBlock_of_le (hlen.trans_le h), hmacKeyBlock_of_le (by omega), hlen, List.append_assoc, zeros, zeros,
    List.replicate_append_replicate, hzeros]

theorem hmacKeyBlock_sha256 {key : Bytes} (h : 64 < key.length) : hmacKeyBlock (sha256 key) = hmacKeyBlock key := by
  have hdigest : (sha256 key).length ≤ 64 := by rw [sha256_length]; decide
  rw [hmacKeyBlock_of_lt h, hmacKeyBlock_of_le hdigest]

/-- The key enters the MAC through its key block alone. -/
theorem hmac_eq_of_hmacKeyBlock_eq {key key' : Bytes} (h : hmacKeyBlock key = hmacKeyBlock key') (msg : Bytes) :
    hmac key msg = hmac key' msg := by
  simp only [hmac, h]

/-- Settles O45: the padded key, and the digest of the long one, have the key block of the key. -/
theorem hmacKeyPaddingAndHashing : Obligations.HmacKeyPaddingAndHashing := fun _ msg =>
  ⟨fun _ hk => hmac_eq_of_hmacKeyBlock_eq (hmacKeyBlock_append_zeros hk) msg,
    fun hlong => hmac_eq_of_hmacKeyBlock_eq (hmacKeyBlock_sha256 hlong).symm msg⟩

/-! ## PBKDF2: truncation -/

/-- However many blocks are derived beyond those needed, the result is the first bytes of them. -/
theorem pbkdf2_eq_take_of_le (p salt : Bytes) (c : Nat) {dkLen l : Nat} (h : dkLen ≤ 32 * l) :
    pbkdf2 p salt c dkLen = ((List.range' 1 l).flatMap (pbkdf2Block p salt c)).take dkLen := by
  obtain ⟨extra, rfl⟩ : ∃ extra, l = (dkLen + 31) / 32 + extra := Nat.exists_eq_add_of_le (by omega)
  have hneeded : dkLen ≤ ((List.range' 1 ((dkLen + 31) / 32)).flatMap (pbkdf2Block p salt c)).length := by
    rw [flatMap_length_const _ 32 (pbkdf2Block_length p salt c), List.length_range']
    omega
  rw [← List.range'_append_1, List.flatMap_append, List.take_append_of_le_length hneeded, pbkdf2]

/-- Settles O46: both results are the first bytes of the blocks of the longer one. -/
theorem pbkdf2TruncatesToPrefix : Obligations.Pbkdf2TruncatesToPrefix := by
  intro p salt c m n hmn
  have hm : m ≤ 32 * n := by omega
  have hn : n ≤ 32 * n := by omega
  refine ⟨?_, pbkdf2_length p salt c n⟩
  rw [pbkdf2_eq_take_of_le p salt c hm, pbkdf2_eq_take_of_le p salt c hn, List.take_take, Nat.min_eq_left hmn]

end Sys2Proof.Machine
end

section
/-! PROOF. The commands HMAC_SHA256 and PBKDF2_SHA256 (41_hmac_pbkdf2.md R86, R89). -/

namespace Sys2Proof.Machine

/-- A command whose commit block is one write to DBUF at DST, on the scalar datapath: with its checks passed it
completes without error, and H, V, CAP and the rest of DBUF are kept. -/
theorem completes_of_memWrite_dst {i : Instr} {s : State} {cs : List Check} {v : Bytes} {n : Nat} {op : Byte}
    (he : exec i s = s.finish cs (s.memWrite s.dst v) false) (hpass : ∀ c ∈ cs, c.pass = true)
    (hop : opField s.latch.cmd = op) (hv : v.length = n) :
    ∃ t, exec i s = .next t ∧ CompletesOk s t op false ∧ t.memRead s.dst n = v ∧ DbufSameOutside s t s.dst n ∧
      t.h = s.h ∧ t.cap = s.cap ∧ t.scratch = s.scratch :=
  ⟨(committed s s.h s.cap s.dst v s.scratch).completeOk false, he.trans (finish_of_pass hpass _ _),
    committed_completesOk hop .., committed_memRead _ _ _ _ hv _ _, committed_dbufSameOutside _ _ _ _ hv _ _,
    rfl, rfl, rfl⟩

/-- Settles O34: the three checks pass and the MAC is the commit block's only write, or the first check that fails
is the one whose region is out of range. -/
theorem hmacSha256WritesMac : Obligations.HmacSha256WritesMac := by
  rintro s _ _ _ _ _ hcmd rfl rfl rfl rfl rfl
  have hkey : (s.checkSrc0 s.len0).pass = true ↔ s.src0 + s.len0 ≤ 1024 := checkSrc0_pass s s.len0
  have hmsg : (s.checkSrc1 s.len1).pass = true ↔ s.src1 + s.len1 ≤ 1024 := checkSrc1_pass s s.len1
  have hdst : (s.checkDst Config.hlen).pass = true ↔ s.dst + 32 ≤ 1024 := checkDst_pass s Config.hlen
  have hexec := exec_hmacSha256 s
  refine ⟨fun keyIn msgIn dstIn => ?_, fun keyOut => ?_, fun keyIn msgOut => ?_, fun keyIn msgIn dstOut => ?_⟩
  · refine completes_of_memWrite_dst hexec ?_ (by rw [hcmd]; rfl) (hmac_length _ _)
    simp only [List.forall_mem_cons]
    exact ⟨hkey.2 keyIn, hmsg.2 msgIn, hdst.2 dstIn, nofun⟩
  · exact fails_of_firstFailing hexec (firstFailing_cons_fail _ (hkey.not.2 (Nat.not_le.2 keyOut)))
  · exact fails_of_firstFailing hexec <| (firstFailing_cons_pass _ (hkey.2 keyIn)).trans <|
      firstFailing_cons_fail _ (hmsg.not.2 (Nat.not_le.2 msgOut))
  · exact fails_of_firstFailing hexec <| (firstFailing_cons_pass _ (hkey.2 keyIn)).trans <|
      (firstFailing_cons_pass _ (hmsg.2 msgIn)).trans <|
      firstFailing_cons_fail _ (hdst.not.2 (Nat.not_le.2 dstOut))

/-- Settles O35: the five checks pass and the derived key is the commit block's only write, or the first check that
fails raises its error. -/
theorem pbkdf2Sha256WritesDerivedKey : Obligations.Pbkdf2Sha256WritesDerivedKey := by
  rintro s _ _ _ _ _ _ _ hcmd rfl rfl rfl rfl rfl rfl rfl
  have hlen : s.checkDkLen.pass = true ↔ 1 ≤ s.len2 := (checkDkLen_pass s).trans Nat.one_le_iff_ne_zero.symm
  have hiter : s.checkIter.pass = true ↔ 1 ≤ s.iter := (checkIter_pass s).trans Nat.one_le_iff_ne_zero.symm
  have hpw : (s.checkSrc0 s.len0).pass = true ↔ s.src0 + s.len0 ≤ 1024 := checkSrc0_pass s s.len0
  have hsalt : (s.checkSrc1 s.len1).pass = true ↔ s.src1 + s.len1 ≤ 1024 := checkSrc1_pass s s.len1
  have hdst : (s.checkDst s.len2).pass = true ↔ s.dst + s.len2 ≤ 1024 := checkDst_pass s s.len2
  have hexec := exec_pbkdf2Sha256 s
  refine ⟨fun len iter pwIn saltIn dstIn => ?_, fun noLen => ?_, fun len noIter => ?_, fun len iter pwOut => ?_,
    fun len iter pwIn saltOut => ?_, fun len iter pwIn saltIn dstOut => ?_⟩
  · refine completes_of_memWrite_dst hexec ?_ (by rw [hcmd]; rfl) (pbkdf2_length _ _ _ _)
    simp only [List.forall_mem_cons]
    exact ⟨hlen.2 len, hiter.2 iter, hpw.2 pwIn, hsalt.2 saltIn, hdst.2 dstIn, nofun⟩
  · exact fails_of_firstFailing hexec (firstFailing_cons_fail _ ((checkDkLen_pass s).not_left.2 noLen))
  · exact fails_of_firstFailing hexec <| (firstFailing_cons_pass _ (hlen.2 len)).trans <|
      firstFailing_cons_fail _ ((checkIter_pass s).not_left.2 noIter)
  · exact fails_of_firstFailing hexec <| (firstFailing_cons_pass _ (hlen.2 len)).trans <|
      (firstFailing_cons_pass _ (hiter.2 iter)).trans <|
      firstFailing_cons_fail _ (hpw.not.2 (Nat.not_le.2 pwOut))
  · exact fails_of_firstFailing hexec <| (firstFailing_cons_pass _ (hlen.2 len)).trans <|
      (firstFailing_cons_pass _ (hiter.2 iter)).trans <| (firstFailing_cons_pass _ (hpw.2 pwIn)).trans <|
      firstFailing_cons_fail _ (hsalt.not.2 (Nat.not_le.2 saltOut))
  · exact fails_of_firstFailing hexec <| (firstFailing_cons_pass _ (hlen.2 len)).trans <|
      (firstFailing_cons_pass _ (hiter.2 iter)).trans <| (firstFailing_cons_pass _ (hpw.2 pwIn)).trans <|
      (firstFailing_cons_pass _ (hsalt.2 saltIn)).trans <|
      firstFailing_cons_fail _ (hdst.not.2 (Nat.not_le.2 dstOut))

end Sys2Proof.Machine
end

section
/-! PROOF. The quarter-rounds of a round work on disjoint words, so their order does not matter
(42_salsa_blockmix.md R91, R92). -/

namespace Sys2Proof.Machine

/-! ## One step of a quarter-round -/

/-- What one of the four steps of a quarter-round makes of word `t`, from words `p` and `q`. -/
def mixedWord (t p q : Fin 16) (n : Nat) (z : Vector Word 16) : Word := z[t] ^^^ rotl32 (z[p] + z[q]) n

/-- One of the four steps of a quarter-round: word `t` is mixed with words `p` and `q`. -/
def mixWord (t p q : Fin 16) (n : Nat) (z : Vector Word 16) : Vector Word 16 := z.set t (mixedWord t p q n z)

section
variable {t p q t' p' q' : Fin 16} (n n' : Nat)

/-- A step does not see a step on a word it does not read. -/
theorem mixedWord_mixWord (h : t' ∉ [t, p, q]) (z : Vector Word 16) :
    mixedWord t p q n (mixWord t' p' q' n' z) = mixedWord t p q n z := by
  have hkept : ∀ x ∈ [t, p, q], (mixWord t' p' q' n' z)[x] = z[x] := fun x hx =>
    Vector.getElem_set_ne _ _ (Fin.val_ne_of_ne fun e => h (e ▸ hx))
  rw [mixedWord, hkept t (by simp), hkept p (by simp), hkept q (by simp), mixedWord]

/-- Neither step writes a word the other one uses. -/
theorem mixWord_commute (h : List.Disjoint [t, p, q] [t', p', q']) :
    Function.Commute (mixWord t p q n) (mixWord t' p' q' n') := by
  intro z
  have ht : t ∉ [t', p', q'] := fun hmem => h List.mem_cons_self hmem
  have ht' : t' ∉ [t, p, q] := fun hmem => h hmem List.mem_cons_self
  have hne : t' ≠ t := fun e => ht' (e ▸ List.mem_cons_self)
  calc mixWord t p q n (mixWord t' p' q' n' z)
      = (mixWord t' p' q' n' z).set t (mixedWord t p q n z) :=
        congrArg (Vector.set _ t · t.isLt) (mixedWord_mixWord n n' ht' z)
    _ = (mixWord t p q n z).set t' (mixedWord t' p' q' n' z) := Vector.set_comm _ _ (Fin.val_ne_of_ne hne)
    _ = mixWord t' p' q' n' (mixWord t p q n z) :=
        congrArg (Vector.set _ t' · t'.isLt) (mixedWord_mixWord n' n ht z).symm

end

/-! ## Quarter-rounds -/

/-- The four words a quarter-round works on. -/
structure Quad where
  a : Fin 16
  b : Fin 16
  c : Fin 16
  d : Fin 16
  deriving DecidableEq

/-- The words of a quad. -/
def Quad.words (k : Quad) : List (Fin 16) := [k.a, k.b, k.c, k.d]

/-- The quarter-round on the words of a quad. -/
def Quad.mix (k : Quad) (z : Vector Word 16) : Vector Word 16 := quarterRound z k.a k.b k.c k.d

theorem quad_mix_eq (k : Quad) : k.mix =
    mixWord k.a k.d k.c 18 ∘ mixWord k.d k.c k.b 13 ∘ mixWord k.c k.b k.a 9 ∘ mixWord k.b k.a k.d 7 := rfl

/-- What commutes with every step on words of a quad commutes with its quarter-round. -/
theorem commute_quad_mix {f : Vector Word 16 → Vector Word 16} {k : Quad}
    (h : ∀ t p q n, [t, p, q] ⊆ k.words → Function.Commute f (mixWord t p q n)) : Function.Commute f k.mix := by
  rw [quad_mix_eq]
  have hstep1 := h k.b k.a k.d 7 (by simp [Quad.words])
  have hstep2 := h k.c k.b k.a 9 (by simp [Quad.words])
  have hstep3 := h k.d k.c k.b 13 (by simp [Quad.words])
  have hstep4 := h k.a k.d k.c 18 (by simp [Quad.words])
  exact hstep4.comp_right (hstep3.comp_right (hstep2.comp_right hstep1))

theorem quad_mix_commute {k k' : Quad} (h : k.words.Disjoint k'.words) : Function.Commute k.mix k'.mix :=
  commute_quad_mix fun _ _ _ _ hsub' => .symm <| commute_quad_mix fun _ _ _ _ hsub =>
    mixWord_commute _ _ (List.disjoint_of_subset_left hsub' (List.disjoint_of_subset_right hsub h.symm))

/-! ## Rounds -/

/-- Quarter-rounds run one after another. -/
def mixQuads (ks : List Quad) (z : Vector Word 16) : Vector Word 16 := ks.foldl (fun z k => k.mix z) z

/-- Quarter-rounds on disjoint words may run in the opposite order. -/
theorem mixQuads_reverse {ks : List Quad} (h : ∀ k ∈ ks, ∀ k' ∈ ks, k = k' ∨ ∀ x ∈ k.words, x ∉ k'.words)
    (z : Vector Word 16) : mixQuads ks z = mixQuads ks.reverse z := by
  refine (List.reverse_perm ks).symm.foldl_eq' (fun k hk k' hk' y => ?_) z
  obtain rfl | hdisjoint := h k hk k' hk'
  · rfl
  · exact (quad_mix_commute fun x => hdisjoint x).symm y

/-- The columns (42_salsa_blockmix.md R92). -/
def columnQuads : List Quad := [⟨0, 4, 8, 12⟩, ⟨5, 9, 13, 1⟩, ⟨10, 14, 2, 6⟩, ⟨15, 3, 7, 11⟩]

/-- The rows (42_salsa_blockmix.md R92). -/
def rowQuads : List Quad := [⟨0, 1, 2, 3⟩, ⟨5, 6, 7, 4⟩, ⟨10, 11, 8, 9⟩, ⟨15, 12, 13, 14⟩]

theorem columnRound_eq_mixQuads (z : Vector Word 16) : columnRound z = mixQuads columnQuads z := rfl
theorem rowRound_eq_mixQuads (z : Vector Word 16) : rowRound z = mixQuads rowQuads z := rfl

/-- Settles O47: the four columns are disjoint, and so are the four rows. -/
theorem quarterRoundsOfARoundCommute : Obligations.QuarterRoundsOfARoundCommute := fun z =>
  ⟨mixQuads_reverse (ks := columnQuads) (by decide) z, mixQuads_reverse (ks := rowQuads) (by decide) z⟩

end Sys2Proof.Machine
end

section
/-! PROOF. BlockMix for general r, at r = 1 (42_salsa_blockmix.md R95, R96). -/

namespace Sys2Proof.Machine

/-- A block is its two sub-blocks. -/
theorem slice_subBlocks {b : Bytes} (h : b.length = 128) :
    slice b 0 64 = b.take 64 ∧ slice b 64 128 = b.drop 64 :=
  ⟨rfl, List.take_of_length_le (by simp [h])⟩

theorem deinterleave_pair (y0 y1 : Bytes) : deinterleave [y0, y1] = [y0, y1] := rfl

/-- The general form on two sub-blocks: the carry starts as the second one, and the outputs keep their order. -/
theorem blockMixR_pair (b0 b1 : Bytes) :
    blockMixR [b0, b1] = salsa20_8 (xorBytes b1 b0) ++ salsa20_8 (xorBytes (salsa20_8 (xorBytes b1 b0)) b1) := by
  have houtputs : blockMixOutputs b1 [b0, b1] =
      [salsa20_8 (xorBytes b1 b0), salsa20_8 (xorBytes (salsa20_8 (xorBytes b1 b0)) b1)] := rfl
  have hlast : [b0, b1].getLastD [] = b1 := rfl
  rw [blockMixR, hlast, houtputs, deinterleave_pair, List.flatten_cons, List.flatten_singleton]

/-- Settles O48: the core's BlockMix is the general form on the two halves of the block. -/
theorem blockMixIsGeneralFormAtROne : Obligations.BlockMixIsGeneralFormAtROne := by
  intro b hlength
  obtain ⟨hfirst, hsecond⟩ := slice_subBlocks hlength
  rw [blockMixR_pair, blockMix, hfirst, hsecond]

end Sys2Proof.Machine
end

section
/-! PROOF. The all-zero block through Salsa20/8, BlockMix and ROMix (42_salsa_blockmix.md R93, R96; 43_romix.md R99
to R101). -/

namespace Sys2Proof.Machine

/-! ## Salsa20/8 -/

/-- The state whose 16 words are 0. -/
def zeroState : Vector Word 16 := .replicate 16 0

theorem rotl32_zero (n : Nat) : rotl32 0 n = 0 := by simp [rotl32]

theorem mixedWord_zeroState (t p q : Fin 16) (n : Nat) : mixedWord t p q n zeroState = zeroState[t] := by
  have hword : ∀ x : Fin 16, zeroState[x] = 0 := fun x => Vector.getElem_replicate x.isLt
  have hsum : zeroState[p] + zeroState[q] = 0 := by rw [hword p, hword q]; rfl
  rw [mixedWord, hsum, rotl32_zero]
  exact BitVec.xor_zero

theorem mixWord_zeroState (t p q : Fin 16) (n : Nat) : mixWord t p q n zeroState = zeroState := by
  rw [mixWord, mixedWord_zeroState]
  exact Vector.set_getElem_self t.isLt

theorem quad_mix_zeroState (k : Quad) : k.mix zeroState = zeroState := by
  simp only [quad_mix_eq, Function.comp_apply, mixWord_zeroState]

theorem doubleRound_zeroState : doubleRound zeroState = zeroState := by
  have hround : ∀ ks, mixQuads ks zeroState = zeroState := List.foldl_fixed' quad_mix_zeroState
  rw [doubleRound, columnRound_eq_mixQuads, hround, rowRound_eq_mixQuads, hround]

theorem salsaLoad_zeros : salsaLoad (zeros 64) = zeroState := by decide

theorem salsaStore_zeroState : salsaStore zeroState = zeros 64 := by decide

theorem salsa20_8_zeros : salsa20_8 (zeros 64) = zeros 64 := by
  have hsum : Vector.zipWith (· + ·) zeroState zeroState = zeroState := Vector.ext fun k hk => by simp [zeroState]
  simp only [salsa20_8, salsaLoad_zeros, doubleRound_zeroState, hsum, salsaStore_zeroState]

/-! ## BlockMix -/

theorem xorBytes_zeros (n : Nat) : xorBytes (zeros n) (zeros n) = zeros n := List.zipWith_replicate'

theorem blockMix_zeros : blockMix (zeros 128) = zeros 128 := by
  obtain ⟨hfirst, hsecond⟩ := slice_subBlocks (zeros_length 128)
  have htake : (zeros 128).take 64 = zeros 64 := List.take_replicate
  have hdrop : (zeros 128).drop 64 = zeros 64 := List.drop_replicate
  have happend : zeros 64 ++ zeros 64 = zeros 128 := List.replicate_append_replicate
  simp only [blockMix, hfirst, hsecond, htake, hdrop, xorBytes_zeros, salsa20_8_zeros, happend]

/-! ## ROMix -/

/-- Anything true of the block that enters and kept by BlockMix is true of every block the fill steps write
(43_romix.md R100). -/
theorem foldl_fillStep_vRead (P : Bytes → Prop) (hP : ∀ x, P x → P (blockMix x)) (epoch : Nat) (l : List Nat)
    (vx : Scratch × Bytes) (h : P vx.2) {j : Nat} (hj : j ∈ l) : P (vRead epoch (l.foldl fillStep vx).1 j) := by
  induction l using List.reverseRecOn with
  | nil => cases hj
  | append_singleton l i ih =>
    rw [List.foldl_concat, fillStep]
    by_cases hij : i = j
    · subst hij
      rw [vRead_vWrite_self]
      exact foldl_fillStep_snd P hP l vx h
    · rw [vRead_vWrite_ne epoch _ _ hij]
      exact ih ((List.mem_append.1 hj).resolve_right fun e => hij (List.mem_singleton.1 e).symm)

/-- A zero block fills V with zero blocks, and the fill ends on one. -/
theorem romixFill_zeros (epoch : Nat) (v : Scratch) :
    (romixFill v (zeros 128)).2 = zeros 128 ∧
      ∀ j, j < 1024 → vRead epoch (romixFill v (zeros 128)).1 j = zeros 128 := by
  have hfixed : ∀ x, x = zeros 128 → blockMix x = zeros 128 := fun x hx => hx ▸ blockMix_zeros
  rw [romixFill, romixN_eq]
  exact ⟨foldl_fillStep_snd (· = zeros 128) hfixed _ _ rfl, fun j hj =>
    foldl_fillStep_vRead (· = zeros 128) hfixed epoch _ _ rfl (List.mem_range.2 hj)⟩

/-- Whichever block of V a mix step picks, it is zero. -/
theorem romixMix_zeros {epoch : Nat} {v : Scratch} (h : ∀ j, j < 1024 → vRead epoch v j = zeros 128) :
    romixMix epoch v (zeros 128) = zeros 128 := by
  have hstep : mixStep epoch v (zeros 128) = zeros 128 := by
    rw [mixStep, h _ (integerify_lt _), xorBytes_zeros, blockMix_zeros]
  rw [romixMix]
  exact List.foldl_fixed' (fun _ => hstep) _

theorem romix_zeros (epoch : Nat) (v : Scratch) : (romix epoch v (zeros 128)).2 = zeros 128 := by
  obtain ⟨hlast, htable⟩ := romixFill_zeros epoch v
  rw [romix_snd, hlast, romixMix_zeros htable]

/-- Settles O52: the zero state is fixed by every quarter-round, so the zero block by Salsa20/8, by BlockMix, and by
both phases of ROMix. -/
theorem zeroBlockIsAFixedPoint : Obligations.ZeroBlockIsAFixedPoint :=
  ⟨salsa20_8_zeros, blockMix_zeros, romix_zeros⟩

end Sys2Proof.Machine
end

section
/-! PROOF. The commands SALSA20_8 and BLOCKMIX (42_salsa_blockmix.md R94, R97). -/

namespace Sys2Proof.Machine

theorem capDetected_of_cap_eq {s t : State} (h : t.cap = s.detect.cap) : CapDetected s t := by
  rw [detect_cap] at h
  exact ⟨fun detected => by rw [h, if_pos detected], fun undetected => by simp [h, undetected]⟩

/-- A command that detects, writes to DBUF at DST and may leave a table in V: with its checks passed it completes
without error on the selected datapath, and H and the rest of DBUF are kept. -/
theorem completes_of_detect_memWrite_dst {i : Instr} {s : State} {cs : List Check} {v : Bytes} {n : Nat} {op : Byte}
    {w : Scratch} (he : exec i s = s.finish cs { s.detect.memWrite s.dst v with scratch := w } s.selectPath)
    (hpass : ∀ c ∈ cs, c.pass = true) (hop : opField s.latch.cmd = op) (hv : v.length = n) :
    ∃ t, exec i s = .next t ∧ CompletesOk s t op s.selectPath ∧ t.memRead s.dst n = v ∧
      DbufSameOutside s t s.dst n ∧ CapDetected s t ∧ t.h = s.h ∧ t.scratch = w :=
  ⟨(committed s s.h s.detect.cap s.dst v w).completeOk s.selectPath, he.trans (finish_of_pass hpass _ _),
    committed_completesOk hop .., committed_memRead _ _ _ _ hv _ _, committed_dbufSameOutside _ _ _ _ hv _ _,
    capDetected_of_cap_eq rfl, rfl, rfl⟩

/-- A command that writes, for the `n` bytes at SRC0, `n` bytes at DST, and detects: both checks pass and the bytes
are written, or the first check that fails is that of SRC0 or, SRC0 being in range, that of DST. -/
theorem mixCommand_outcomes {i : Instr} {s : State} {n : Nat} {v : Bytes} {op : Byte}
    (he : exec i s = s.finish [s.checkSrc0 n, s.checkDst n] (s.detect.memWrite s.dst v) s.selectPath)
    (hop : opField s.latch.cmd = op) (hv : v.length = n) :
    (s.src0 + n ≤ 1024 → s.dst + n ≤ 1024 → ∃ t, exec i s = .next t ∧ CompletesOk s t op s.selectPath ∧
      t.memRead s.dst n = v ∧ DbufSameOutside s t s.dst n ∧ CapDetected s t ∧ t.h = s.h ∧
      t.scratch = s.scratch) ∧
    (1024 < s.src0 + n → Fails i s .range .src0) ∧
    (s.src0 + n ≤ 1024 → 1024 < s.dst + n → Fails i s .range .dst) := by
  have hsrc : (s.checkSrc0 n).pass = true ↔ s.src0 + n ≤ 1024 := checkSrc0_pass s n
  have hdst : (s.checkDst n).pass = true ↔ s.dst + n ≤ 1024 := checkDst_pass s n
  refine ⟨fun srcIn dstIn => ?_, fun srcOut => ?_, fun srcIn dstOut => ?_⟩
  · refine completes_of_detect_memWrite_dst he ?_ hop hv
    simp only [List.forall_mem_cons]
    exact ⟨hsrc.2 srcIn, hdst.2 dstIn, nofun⟩
  · exact fails_of_firstFailing he (firstFailing_cons_fail _ (hsrc.not.2 (Nat.not_le.2 srcOut)))
  · exact fails_of_firstFailing he <| (firstFailing_cons_pass _ (hsrc.2 srcIn)).trans <|
      firstFailing_cons_fail _ (hdst.not.2 (Nat.not_le.2 dstOut))

/-- Settles O36: SALSA20_8 mixes the 64 bytes at SRC0. -/
theorem salsa208WritesPermutedSubBlock : Obligations.Salsa208WritesPermutedSubBlock := by
  rintro s _ _ hcmd rfl rfl
  exact mixCommand_outcomes (exec_salsa208 s) (by rw [hcmd]; rfl) (salsa20_8_length _)

/-- Settles O37: BLOCKMIX mixes the 128 bytes at SRC0. -/
theorem blockmixWritesMixedBlock : Obligations.BlockmixWritesMixedBlock := by
  rintro s _ _ hcmd rfl rfl
  exact mixCommand_outcomes (exec_blockmix s) (by rw [hcmd]; rfl) (blockMix_length _)

end Sys2Proof.Machine
end

section
/-! PROOF. The command ROMIX (43_romix.md R104). -/

namespace Sys2Proof.Machine

/-- Settles O38: the three checks pass, and the output is written at DST and the table left in V, or the first check
that fails raises its error. -/
theorem romixWritesMixedBlock : Obligations.RomixWritesMixedBlock := by
  rintro s _ _ hcmd rfl rfl
  have hsrc : (s.checkSrc0 Config.blk).pass = true ↔ s.src0 + 128 ≤ 1024 := checkSrc0_pass s Config.blk
  have hdst : (s.checkDst Config.blk).pass = true ↔ s.dst + 128 ≤ 1024 := checkDst_pass s Config.blk
  have hscratch : s.checkScratch.pass = true ↔ 131072 ≤ s.build.scratchAvail := checkScratch_pass s
  have hop : opField s.latch.cmd = 0x08 := by rw [hcmd]; rfl
  have hexec := exec_romix s
  refine ⟨fun srcIn dstIn scratchFits => ?_, fun srcOut => ?_, fun srcIn dstOut => ?_,
    fun srcIn dstIn scratchSmall => ?_⟩
  · have hpass : ∀ c ∈ [s.checkSrc0 Config.blk, s.checkDst Config.blk, s.checkScratch], c.pass = true := by
      simp only [List.forall_mem_cons]
      exact ⟨hsrc.2 srcIn, hdst.2 dstIn, hscratch.2 scratchFits, nofun⟩
    obtain ⟨t, hnext, hok, hread, hout, hcap, hh, hv⟩ :=
      completes_of_detect_memWrite_dst hexec hpass hop (romix_length _ _ _)
    exact ⟨t, hnext, hok, hread, hout, hv, hcap, hh⟩
  · exact fails_of_firstFailing hexec (firstFailing_cons_fail _ (hsrc.not.2 (Nat.not_le.2 srcOut)))
  · exact fails_of_firstFailing hexec <| (firstFailing_cons_pass _ (hsrc.2 srcIn)).trans <|
      firstFailing_cons_fail _ (hdst.not.2 (Nat.not_le.2 dstOut))
  · exact fails_of_firstFailing hexec <| (firstFailing_cons_pass _ (hsrc.2 srcIn)).trans <|
      (firstFailing_cons_pass _ (hdst.2 dstIn)).trans <|
      firstFailing_cons_fail _ (hscratch.not.2 (Nat.not_le.2 scratchSmall))

end Sys2Proof.Machine
end

section
/-! PROOF. Integerify reads ten bits (43_romix.md R98). -/

namespace Sys2Proof.Machine

/-- A byte put below a number. -/
theorem shiftLeft_or_byte (n : Nat) (b : Byte) : n <<< 8 ||| b.toNat = n * 256 + b.toNat := by
  rw [← Nat.shiftLeft_add_eq_or_of_lt b.isLt, Nat.shiftLeft_eq]

/-- A little-endian word as the number its four bytes spell. -/
theorem u32le_toNat (x : Bytes) (k : Nat) :
    (u32le x k).toNat = (((byteAt x (k + 3)).toNat * 256 + (byteAt x (k + 2)).toNat) * 256 +
      (byteAt x (k + 1)).toNat) * 256 + (byteAt x k).toNat := by
  simp only [u32le, BitVec.toNat_append, shiftLeft_or_byte]

/-- Only the first byte of the last sub-block and two bits of its second one survive the reduction mod 1024. -/
theorem integerify_eq_bytes (x : Bytes) :
    integerify x = (byteAt x 65).toNat % 4 * 256 + (byteAt x 64).toNat := by
  have hlt := (byteAt x 64).isLt
  have hword := u32le_toNat x 64
  simp only [Nat.reduceAdd] at hword
  rw [integerify_eq]
  omega

/-- The two-byte form of R98: the bits of the two bytes do not overlap, and none is lost. -/
theorem toNat_tenBits (b c : Byte) :
    (b.setWidth 16 ||| ((c &&& 0x03).setWidth 16 <<< 8) : BitVec 16).toNat = c.toNat % 4 * 256 + b.toNat := by
  have htwo : (c &&& 0x03).toNat = c.toNat % 4 := Nat.and_two_pow_sub_one_eq_mod c.toNat 2
  have hhigh : ((c &&& 0x03).setWidth 16 <<< 8).toNat = (c.toNat % 4) <<< 8 := by
    rw [BitVec.toNat_shiftLeft, BitVec.toNat_setWidth_of_le (by decide), htwo, Nat.shiftLeft_eq]
    omega
  rw [BitVec.toNat_or, hhigh, BitVec.toNat_setWidth_of_le (by decide), Nat.or_comm, shiftLeft_or_byte]

/-- Settles O49: all three readings come down to the same two bytes. -/
theorem integerifyReadsTenBits : Obligations.IntegerifyReadsTenBits := by
  refine fun x hx => ⟨?_, ?_, Nat.le_of_lt_succ (integerify_lt x)⟩
  · rw [toNat_tenBits]
    exact integerify_eq_bytes x
  · have hfirst : byteAt x 64 = x[64] := List.getD_eq_getElem _ _ _
    have hsecond : byteAt x 65 = x[65] := List.getD_eq_getElem _ _ _
    have hdrop : x.drop 64 = x[64] :: x[65] :: x.drop 66 := by
      rw [List.drop_eq_getElem_cons (by omega), List.drop_eq_getElem_cons (by omega)]
    have hlt := x[64].isLt
    rw [integerify_eq_bytes, hfirst, hsecond, hdrop, List.foldr_cons, List.foldr_cons]
    omega

end Sys2Proof.Machine
end

section
/-! PROOF. The table of the fill phase, and what V held before a command (43_romix.md R99 to R102). -/

namespace Sys2Proof.Machine

/-! ## The fill phase -/

/-- After `n` fill steps the block at hand, and each of the first `n` blocks of V, is an iterate of BlockMix. -/
theorem foldl_fillStep_range (epoch : Nat) (v : Scratch) (b : Bytes) (n : Nat) :
    ((List.range n).foldl fillStep (v, b)).2 = blockMix^[n] b ∧
      ∀ j, j < n → vRead epoch ((List.range n).foldl fillStep (v, b)).1 j = blockMix^[j] b := by
  induction n with
  | zero => exact ⟨rfl, nofun⟩
  | succ n ih =>
    obtain ⟨hblock, htable⟩ := ih
    rw [List.range_succ, List.foldl_concat, fillStep]
    refine ⟨by rw [hblock, Function.iterate_succ_apply'], fun j hj => ?_⟩
    by_cases hjn : n = j
    · rw [← hjn, vRead_vWrite_self, hblock]
    · rw [vRead_vWrite_ne epoch _ _ hjn, htable j (by omega)]

/-- Block `j` of the table ROMix leaves in V (43_romix.md R100). -/
theorem vRead_romix (epoch : Nat) (v : Scratch) (b : Bytes) {j : Nat} (hj : j < 1024) :
    vRead epoch (romix epoch v b).1 j = blockMix^[j] b := by
  rw [romix_fst, romixFill, romixN_eq]
  exact (foldl_fillStep_range epoch v b 1024).2 j hj

/-- The mix phase runs on the table from the block the fill phase ends on (43_romix.md R99; 90_conflicts.md C1). -/
theorem romix_snd_eq_romixMix (epoch : Nat) (v : Scratch) (b : Bytes) :
    (romix epoch v b).2 = romixMix epoch (romix epoch v b).1 (blockMix^[1024] b) := by
  have hlast : (romixFill v b).2 = blockMix^[1024] b := by
    rw [romixFill, romixN_eq]
    exact (foldl_fillStep_range epoch v b 1024).1
  rw [romix_snd, romix_fst, hlast]

/-- Settles O50: the fill's last output is one BlockMix past the last block it wrote. -/
theorem fillPhaseTable : Obligations.FillPhaseTable := by
  refine fun epoch v b => ⟨fun j hj => vRead_romix epoch v b hj, ?_⟩
  have hstart : blockMix^[1024] b = blockMix (vRead epoch (romix epoch v b).1 1023) := by
    rw [vRead_romix epoch v b (by decide)]
    exact Function.iterate_succ_apply' blockMix 1023 b
  rw [← hstart]
  exact romix_snd_eq_romixMix epoch v b

/-! ## ROMix from two scratchpads -/

/-- The mix phase reads V only at indexes below 1024. -/
theorem romixMix_congr {e e' : Nat} {v v' : Scratch} (h : ∀ j, j < 1024 → vRead e v j = vRead e' v' j)
    (x : Bytes) : romixMix e v x = romixMix e' v' x := by
  have hstep : mixStep e v = mixStep e' v' := funext fun y => by
    rw [mixStep, mixStep, h _ (integerify_lt y)]
  rw [romixMix, romixMix, hstep]

theorem vRead_romix_congr (e e' : Nat) (v v' : Scratch) (b : Bytes) {j : Nat} (hj : j < 1024) :
    vRead e (romix e v b).1 j = vRead e' (romix e' v' b).1 j := by
  rw [vRead_romix e v b hj, vRead_romix e' v' b hj]

theorem romix_snd_congr (e e' : Nat) (v v' : Scratch) (b : Bytes) : (romix e v b).2 = (romix e' v' b).2 := by
  rw [romix_snd_eq_romixMix, romix_snd_eq_romixMix]
  exact romixMix_congr (fun j hj => vRead_romix_congr e e' v v' b hj) _

theorem scrypt_snd_congr (e e' : Nat) (v v' : Scratch) (inp : Bytes) :
    (scrypt e v inp).2 = (scrypt e' v' inp).2 := by
  rw [scrypt_snd, scrypt_snd, romix_snd_congr e e' v v']

/-! ## Commands from two scratchpads -/

/-- The state with V replaced. -/
def State.withScratch (s : State) (v : Scratch) : State := { s with scratch := v }

section
variable (s : State) (v : Scratch)

@[simp] theorem withScratch_scratch : (s.withScratch v).scratch = v := rfl
@[simp] theorem withScratch_resets : (s.withScratch v).resets = s.resets := rfl

@[simp] theorem withScratch_source (n : Nat) : (s.withScratch v).source n = s.source n :=
  source_congr rfl rfl rfl n

/-- Command `i` on `s`, and on `s` with V replaced by `v`, completes in states that differ at most in V. -/
def SameUpToScratch (i : Instr) : Prop :=
  ∃ t w, exec i s = .next t ∧ exec i (s.withScratch v) = .next (t.withScratch w)

variable {s v} in
/-- The checks, the datapath and ERRINFO do not read V; the commit block has to be shown to be the same, V apart. -/
theorem sameUpToScratch_of_finish {i : Instr} {cs : List Check} {commit : State} {p : Bool} {w : Scratch}
    (he : exec i s = s.finish cs commit p)
    (he' : exec i (s.withScratch v) = (s.withScratch v).finish cs (commit.withScratch w) p) :
    SameUpToScratch s v i := by
  rcases finish_cases s cs commit p with ⟨c, -, hfail, hnext⟩ | ⟨hpass, hnext⟩
  · exact ⟨_, v, he.trans hnext, he'.trans (finish_of_fail hfail _ _)⟩
  · exact ⟨_, w, he.trans hnext, he'.trans (finish_of_pass hpass _ _)⟩

/-- In the two cases that run ROMix its output is the same for both scratchpads, and its tables are generalized, so
that nothing evaluates it. -/
theorem exec_sameUpToScratch (i : Instr) : SameUpToScratch s v i := by
  cases i with
  | nop => exact sameUpToScratch_of_finish (w := v) (exec_nop s) (exec_nop _)
  | sha256Init => exact sameUpToScratch_of_finish (w := v) (exec_sha256Init s) (exec_sha256Init _)
  | sha256Compress => exact sameUpToScratch_of_finish (w := v) (exec_sha256Compress s) (exec_sha256Compress _)
  | sha256Digest => exact sameUpToScratch_of_finish (w := v) (exec_sha256Digest s) (exec_sha256Digest _)
  | hmacSha256 => exact sameUpToScratch_of_finish (w := v) (exec_hmacSha256 s) (exec_hmacSha256 _)
  | pbkdf2Sha256 => exact sameUpToScratch_of_finish (w := v) (exec_pbkdf2Sha256 s) (exec_pbkdf2Sha256 _)
  | salsa208 => exact sameUpToScratch_of_finish (w := v) (exec_salsa208 s) (exec_salsa208 _)
  | blockmix => exact sameUpToScratch_of_finish (w := v) (exec_blockmix s) (exec_blockmix _)
  | romix =>
    have he := exec_romix s
    have he' := exec_romix (s.withScratch v)
    rw [withScratch_source, withScratch_resets, withScratch_scratch,
      romix_snd_congr s.resets s.resets v s.scratch] at he'
    generalize (romix s.resets v (s.source Config.blk)).1 = w at he'
    exact sameUpToScratch_of_finish (w := w) he he'
  | scrypt =>
    have he := exec_scrypt s
    have he' := exec_scrypt (s.withScratch v)
    rw [withScratch_source, withScratch_resets, withScratch_scratch,
      scrypt_snd_congr s.resets s.resets v s.scratch] at he'
    generalize (scrypt s.resets v (s.source Config.inLen)).1 = w at he'
    exact sameUpToScratch_of_finish (w := w) he he'
  | detect => exact sameUpToScratch_of_finish (w := v) (exec_detect s) (exec_detect _)

end

/-- Settles O51: every block the mix phase reads was written by the fill phase, and no command reads V otherwise. -/
theorem staleScratchpadNeverReachesAResult : Obligations.StaleScratchpadNeverReachesAResult := by
  refine ⟨fun e e' v v' b => ⟨romix_snd_congr e e' v v' b, fun j hj => vRead_romix_congr e e' v v' b hj⟩,
    fun s v' i => ?_⟩
  obtain ⟨t, w, hkept, hreplaced⟩ := exec_sameUpToScratch s v' i
  exact ⟨t, t.withScratch w, hkept, hreplaced, dbufByte_congr rfl rfl, rfl, rfl, rfl, rfl⟩

end Sys2Proof.Machine
end

section
/-! PROOF. The commands NOP and DETECT (44_scrypt_dispatch.md R110, R112). -/

namespace Sys2Proof.Machine

/-- Settles O30: NOP has no check, and its commit block writes nothing. -/
theorem nopCompletesWithNoEffect : Obligations.NopCompletesWithNoEffect := fun s hcmd =>
  ⟨(committed s s.h s.cap 0 [] s.scratch).completeOk false, finish_of_pass (s := s) (cs := []) nofun _ _,
    committed_completesOk (by rw [hcmd]; rfl) .., rfl, rfl, rfl, fun _ => rfl⟩

/-- Settles O40: DETECT has no check, and its commit block writes CAP alone. -/
theorem detectLatchesCapability : Obligations.DetectLatchesCapability := fun s hcmd =>
  ⟨(committed s s.h s.detect.cap 0 [] s.scratch).completeOk false, finish_of_pass (s := s) (cs := []) nofun _ _,
    committed_completesOk (by rw [hcmd]; rfl) .., capDetected_of_cap_eq rfl, rfl, rfl, fun _ => rfl⟩

end Sys2Proof.Machine
end

section
/-! PROOF. The command SCRYPT, and its three passes as commands of their own (44_scrypt_dispatch.md R105, R106). -/

namespace Sys2Proof.Machine

/-- Settles O39: the five checks pass, and the digest is written at DST and the table of its ROMix left in V, or the
first check that fails raises its error. -/
theorem scryptWritesDigest : Obligations.ScryptWritesDigest := by
  rintro s _ _ _ _ hcmd rfl rfl rfl rfl
  have hin : s.checkInLen.pass = true ↔ s.len0 = 80 := checkInLen_pass s
  have hout : s.checkOutLen.pass = true ↔ s.len2 = 32 := checkOutLen_pass s
  have hsrc : (s.checkSrc0 Config.inLen).pass = true ↔ s.src0 + 80 ≤ 1024 := checkSrc0_pass s Config.inLen
  have hdst : (s.checkDst Config.outLen).pass = true ↔ s.dst + 32 ≤ 1024 := checkDst_pass s Config.outLen
  have hscratch : s.checkScratch.pass = true ↔ 131072 ≤ s.build.scratchAvail := checkScratch_pass s
  have hop : opField s.latch.cmd = 0x09 := by rw [hcmd]; rfl
  have hexec := exec_scrypt s
  refine ⟨fun inLen outLen srcIn dstIn scratchFits => ?_, fun inBad => ?_, fun inLen outBad => ?_,
    fun inLen outLen srcOut => ?_, fun inLen outLen srcIn dstOut => ?_,
    fun inLen outLen srcIn dstIn scratchSmall => ?_⟩
  · have hpass : ∀ c ∈ [s.checkInLen, s.checkOutLen, s.checkSrc0 Config.inLen, s.checkDst Config.outLen,
        s.checkScratch], c.pass = true := by
      simp only [List.forall_mem_cons]
      exact ⟨hin.2 inLen, hout.2 outLen, hsrc.2 srcIn, hdst.2 dstIn, hscratch.2 scratchFits, nofun⟩
    obtain ⟨t, hnext, hok, hread, houtside, hcap, hh, hv⟩ :=
      completes_of_detect_memWrite_dst hexec hpass hop (scrypt_length _ _ _)
    exact ⟨t, hnext, hok, hread, houtside, hv.trans (scrypt_fst _ _ _), hcap, hh⟩
  · exact fails_of_firstFailing hexec (firstFailing_cons_fail _ (hin.not.2 inBad))
  · exact fails_of_firstFailing hexec <| (firstFailing_cons_pass _ (hin.2 inLen)).trans <|
      firstFailing_cons_fail _ (hout.not.2 outBad)
  · exact fails_of_firstFailing hexec <| (firstFailing_cons_pass _ (hin.2 inLen)).trans <|
      (firstFailing_cons_pass _ (hout.2 outLen)).trans <|
      firstFailing_cons_fail _ (hsrc.not.2 (Nat.not_le.2 srcOut))
  · exact fails_of_firstFailing hexec <| (firstFailing_cons_pass _ (hin.2 inLen)).trans <|
      (firstFailing_cons_pass _ (hout.2 outLen)).trans <| (firstFailing_cons_pass _ (hsrc.2 srcIn)).trans <|
      firstFailing_cons_fail _ (hdst.not.2 (Nat.not_le.2 dstOut))
  · exact fails_of_firstFailing hexec <| (firstFailing_cons_pass _ (hin.2 inLen)).trans <|
      (firstFailing_cons_pass _ (hout.2 outLen)).trans <| (firstFailing_cons_pass _ (hsrc.2 srcIn)).trans <|
      (firstFailing_cons_pass _ (hdst.2 dstIn)).trans <|
      firstFailing_cons_fail _ (hscratch.not.2 (Nat.not_le.2 scratchSmall))

/-- A region that does not meet the bytes written reads as before. -/
theorem memRead_of_dbufSameOutside {s t : State} {a m b n : Nat} (h : DbufSameOutside s t b n)
    (hdisjoint : a + m ≤ b ∨ b + n ≤ a) : t.memRead a m = s.memRead a m := by
  refine List.map_congr_left fun k hk => h _ ?_
  rw [List.mem_range] at hk
  omega

/-- An issue does not touch DBUF. -/
@[simp] theorem memRead_issueWith (s : State) (o : OpRegs) (i : Instr) (a n : Nat) :
    (s.issueWith o i).memRead a n = s.memRead a n := rfl

/-- Settles O53: the block passes from command to command at `b`, and the input at `a` outlasts the two writes
there. The table left in V by the middle pass enters no digest. -/
theorem scryptIsItsThreePasses : Obligations.ScryptIsItsThreePasses := by
  intro s a b c d scratchFits aIn bIn cIn dIn hdisjoint
  obtain ⟨t1, next1, ok1, block1, outside1, -⟩ :=
    (pbkdf2Sha256WritesDerivedKey (s.issueWith
      { src0 := a, len0 := 80, src1 := a, len1 := 80, iter := 1, len2 := 128, dst := b } .pbkdf2Sha256)
      a.toNat 80 a.toNat 80 1 128 b.toNat rfl rfl rfl rfl rfl rfl rfl rfl).1
      (by decide) (by decide) aIn aIn bIn
  have scratchFits1 : 131072 ≤ t1.build.scratchAvail := by rw [ok1.frame.build]; exact scratchFits
  obtain ⟨t2, next2, -, block2, outside2, -⟩ :=
    (romixWritesMixedBlock (t1.issueWith { t1.ops with src0 := b, dst := b } .romix)
      b.toNat b.toNat rfl rfl rfl).1 bIn bIn scratchFits1
  obtain ⟨t3, next3, ok3, digest3, -⟩ :=
    (pbkdf2Sha256WritesDerivedKey (t2.issueWith
      { src0 := a, len0 := 80, src1 := b, len1 := 128, iter := 1, len2 := 32, dst := c } .pbkdf2Sha256)
      a.toNat 80 b.toNat 128 1 32 c.toNat rfl rfl rfl rfl rfl rfl rfl rfl).1
      (by decide) (by decide) aIn bIn cIn
  obtain ⟨u, nextU, okU, digestU, -⟩ :=
    (scryptWritesDigest (s.issueWith { s.ops with src0 := a, len0 := 80, dst := d, len2 := 32 } .scrypt)
      a.toNat 80 d.toNat 32 rfl rfl rfl rfl rfl).1 rfl rfl aIn dIn scratchFits
  refine ⟨t1, t2, t3, u, next1, next2, next3, nextU, ok3.err, okU.err, ?_⟩
  have input1 : t1.memRead a.toNat 80 = s.memRead a.toNat 80 := memRead_of_dbufSameOutside outside1 hdisjoint
  have input2 : t2.memRead a.toNat 80 = t1.memRead a.toNat 80 := memRead_of_dbufSameOutside outside2 hdisjoint
  simp only [memRead_issueWith] at block1 block2 digest3 digestU
  rw [digest3, input2, input1, block2, block1, digestU, scrypt_snd]
  exact congrArg (pbkdf2 _ · 1 32) (romix_snd_congr ..)

end Sys2Proof.Machine
end

section
/-! PROOF. The datapath selected is seen in STATUS.PATH alone (44_scrypt_dispatch.md R111). -/

namespace Sys2Proof.Machine

/-- What a completion does that the datapath has no part in: its checks, what it writes to H, to DBUF at `dst` and to V,
whether it detects, and whether it reports the selected datapath. -/
structure CommandEffect where
  checks : List Check := []
  h : Vector Word 8
  dst : Nat := 0
  bytes : Bytes := []
  scratch : Scratch
  detects : Bool := false
  reportsPath : Bool := false

/-- The effect of each command, on the operands latched in the state. -/
def State.effect (s : State) (i : Instr) : CommandEffect :=
  match i with
  | .nop => { h := s.h, scratch := s.scratch }
  | .sha256Init => { h := iv, scratch := s.scratch }
  | .sha256Compress =>
    { checks := [s.checkSrc0 Config.shaBlock], h := compress s.h (s.source Config.shaBlock), scratch := s.scratch }
  | .sha256Digest =>
    { checks := [s.checkSrc0 s.len0, s.checkDst Config.hlen], h := s.h, scratch := s.scratch
      dst := s.dst, bytes := sha256 s.operand0 }
  | .hmacSha256 =>
    { checks := [s.checkSrc0 s.len0, s.checkSrc1 s.len1, s.checkDst Config.hlen], h := s.h, scratch := s.scratch
      dst := s.dst, bytes := hmac s.operand0 s.operand1 }
  | .pbkdf2Sha256 =>
    { checks := [s.checkDkLen, s.checkIter, s.checkSrc0 s.len0, s.checkSrc1 s.len1, s.checkDst s.len2]
      h := s.h, scratch := s.scratch, dst := s.dst, bytes := pbkdf2 s.operand0 s.operand1 s.iter s.len2 }
  | .salsa208 =>
    { checks := [s.checkSrc0 Config.sub, s.checkDst Config.sub], h := s.h, scratch := s.scratch
      dst := s.dst, bytes := salsa20_8 (s.source Config.sub), detects := true, reportsPath := true }
  | .blockmix =>
    { checks := [s.checkSrc0 Config.blk, s.checkDst Config.blk], h := s.h, scratch := s.scratch
      dst := s.dst, bytes := blockMix (s.source Config.blk), detects := true, reportsPath := true }
  | .romix =>
    { checks := [s.checkSrc0 Config.blk, s.checkDst Config.blk, s.checkScratch]
      h := s.h, scratch := (romix s.resets s.scratch (s.source Config.blk)).1
      dst := s.dst, bytes := (romix s.resets s.scratch (s.source Config.blk)).2
      detects := true, reportsPath := true }
  | .scrypt =>
    { checks := [s.checkInLen, s.checkOutLen, s.checkSrc0 Config.inLen, s.checkDst Config.outLen, s.checkScratch]
      h := s.h, scratch := (scrypt s.resets s.scratch (s.source Config.inLen)).1
      dst := s.dst, bytes := (scrypt s.resets s.scratch (s.source Config.inLen)).2
      detects := true, reportsPath := true }
  | .detect => { h := s.h, scratch := s.scratch, detects := true }

/-- The state with an effect committed. -/
def State.commit (s : State) (e : CommandEffect) : State :=
  committed s e.h (if e.detects then s.detect.cap else s.cap) e.dst e.bytes e.scratch

/-- The datapath an effect reports. -/
def State.reportedPath (s : State) (e : CommandEffect) : Bool := e.reportsPath && s.selectPath

/-- The error-free completion with a given effect. -/
def State.completeWith (s : State) (e : CommandEffect) : State := (s.commit e).completeOk (s.reportedPath e)

/-- The completion of every command is that of its effect. -/
theorem exec_eq_finish_effect (i : Instr) (s : State) :
    exec i s = s.finish (s.effect i).checks (s.commit (s.effect i)) (s.reportedPath (s.effect i)) := by
  cases i with
  | nop => exact exec_nop s
  | sha256Init => exact exec_sha256Init s
  | sha256Compress => exact exec_sha256Compress s
  | sha256Digest => exact exec_sha256Digest s
  | hmacSha256 => exact exec_hmacSha256 s
  | pbkdf2Sha256 => exact exec_pbkdf2Sha256 s
  | salsa208 => exact exec_salsa208 s
  | blockmix => exact exec_blockmix s
  | romix => exact exec_romix s
  | scrypt => exact exec_scrypt s
  | detect => exact exec_detect s

/-- The state with what selects the datapath replaced: the latched FORCE_SCALAR, VEC_PRESENT and CAP. -/
def State.withDatapath (s : State) (force vec : Bool) (cap : Cap) : State :=
  { s with
    latch := { s.latch with forceScalar := force }
    build := { s.build with vecPresent := vec }
    cap := cap }

section
variable (s : State) (force vec : Bool) (cap : Cap)

@[simp] theorem withDatapath_resets : (s.withDatapath force vec cap).resets = s.resets := rfl
@[simp] theorem withDatapath_scratch : (s.withDatapath force vec cap).scratch = s.scratch := rfl
@[simp] theorem withDatapath_source (n : Nat) : (s.withDatapath force vec cap).source n = s.source n := rfl

/-- No effect depends on what selects the datapath. Where ROMix runs, its arguments are made equal first, so that no
`rfl` evaluates it. -/
theorem effect_withDatapath (i : Instr) : (s.withDatapath force vec cap).effect i = s.effect i := by
  cases i with
  | romix =>
    simp only [State.effect, withDatapath_resets, withDatapath_scratch, withDatapath_source]
    rfl
  | scrypt =>
    simp only [State.effect, withDatapath_resets, withDatapath_scratch, withDatapath_source]
    rfl
  | _ => rfl

/-- With the datapath selected otherwise a command raises the same error, or completes with the same effect. -/
theorem exec_withDatapath_cases (i : Instr) :
    (∃ c f, exec i s = .next (s.raiseError c f) ∧
      exec i (s.withDatapath force vec cap) = .next ((s.withDatapath force vec cap).raiseError c f)) ∨
    (∃ e, exec i s = .next (s.completeWith e) ∧
      exec i (s.withDatapath force vec cap) = .next ((s.withDatapath force vec cap).completeWith e)) := by
  rw [exec_eq_finish_effect, exec_eq_finish_effect, effect_withDatapath]
  rcases finish_cases s (s.effect i).checks (s.commit (s.effect i)) (s.reportedPath (s.effect i)) with
    ⟨c, -, hfail, hnext⟩ | ⟨hpass, hnext⟩
  · exact .inl ⟨c.code, c.field, hnext, finish_of_fail hfail _ _⟩
  · exact .inr ⟨s.effect i, hnext, finish_of_pass hpass _ _⟩

end

/-- Settles O43: the two completions raise one error or have one effect, and FORCE_SCALAR enters only the datapath
that is reported. -/
theorem datapathNeverChangesResults : Obligations.DatapathNeverChangesResults := by
  refine ⟨fun i s force vec cap => ?_, fun i s force => ?_⟩
  · rcases exec_withDatapath_cases s force vec cap i with ⟨c, f, hs, hs'⟩ | ⟨e, hs, hs'⟩
    · exact ⟨_, _, hs, hs', fun _ => rfl, rfl, rfl, rfl, rfl⟩
    · exact ⟨_, _, hs, hs', fun _ => rfl, rfl, rfl, rfl, rfl⟩
  · rcases exec_withDatapath_cases s force s.build.vecPresent s.cap i with ⟨c, f, hs, hs'⟩ | ⟨e, hs, hs'⟩
    · exact ⟨_, false, hs, hs'⟩
    · exact ⟨_, (s.withDatapath force s.build.vecPresent s.cap).reportedPath e, hs, hs'⟩

end Sys2Proof.Machine
end

section
/-! PROOF. The two ways a completion ends, over every command and every word in flight: in error, with nothing but STATUS
and ERRINFO changed, or free of error (10_state.md R39; 60_exceptions.md R115, R134); and which command raises which
code (60_exceptions.md R114). -/

namespace Sys2Proof.Machine

/-! ## Error or no error -/

/-- The two ways a completion ends: with the failing operand recorded, or free of error. -/
inductive Ends (s t : State) : Prop
  | inError {code : ErrCode} {field : ErrField} (named : field ≠ .none) (fails : FailsWith s t code field)
  | ok {op : Byte} {path : Bool} (completes : CompletesOk s t op path)

/-- Every command, on every state, comes to one of the two ends. -/
theorem exec_ends (i : Instr) (s : State) : ∃ t, exec i s = .next t ∧ Ends s t := by
  rcases exec_cases i s with ⟨code, field, -, named, hnext⟩ | ⟨h, cap, a, v, w, path, -, hnext⟩
  · exact ⟨_, hnext, .inError named (raiseError_failsWith s code field)⟩
  · exact ⟨_, hnext, .ok (committed_completesOk rfl h cap a v w path)⟩

theorem ends_of_exec {i : Instr} {s t : State} (h : exec i s = .next t) : Ends s t := by
  obtain ⟨u, hnext, ends⟩ := exec_ends i s
  cases hnext.symm.trans h
  exact ends

/-- A word in flight that selects no command ends in error too (60_exceptions.md R116). -/
theorem ends_of_complete {s t : State} (h : s.complete = .next t) : Ends s t := by
  cases complete_completion h with
  | error code field _ named => exact .inError named (raiseError_failsWith s code field)
  | ok _ _ => exact .ok (committed_completesOk rfl ..)

/-- Settles O7: both ends signal completion within its frame. -/
theorem everyCommandCompletes : Obligations.EveryCommandCompletes := by
  intro i s
  obtain ⟨t, hnext, ends⟩ := exec_ends i s
  cases ends with
  | inError _ fails => exact ⟨t, hnext, fails.busy, fails.done, fails.frame⟩
  | ok completes => exact ⟨t, hnext, completes.busy, completes.done, completes.frame⟩

/-- A completion that shows an error is the end in error, with the code and operand it shows. -/
theorem failsWith_of_ends {s t : State} (h : Ends s t) (herr : t.status.err ≠ .ok) :
    FailsWith s t t.status.err t.errinfo.field ∧ t.errinfo.field ≠ .none := by
  cases h with
  | inError named fails =>
    obtain rfl := fails.err
    obtain rfl := fails.field
    exact ⟨fails, named⟩
  | ok completes => exact absurd completes.err herr

/-- Settles O41: of the two ends, the error-free one shows ERR = 0. -/
theorem failedCommandChangesNothingElse : Obligations.FailedCommandChangesNothingElse :=
  ⟨fun _ _ _ h => failsWith_of_ends (ends_of_exec h), fun _ _ h => failsWith_of_ends (ends_of_complete h)⟩

/-! ## Codes -/

/-- The commands that raise a code (60_exceptions.md R114). The ERR_ILLEGAL_OP of a word that selects no command is no
command's. -/
def RaisedBy (i : Instr) (code : ErrCode) : Prop :=
  match code with
  | .ok | .illegalOp => False
  | .inLen => i = .scrypt
  | .outLen => i = .scrypt ∨ i = .pbkdf2Sha256
  | .param => i = .pbkdf2Sha256
  | .range => i ≠ .nop ∧ i ≠ .sha256Init ∧ i ≠ .detect
  | .alloc => i = .romix ∨ i = .scrypt

section
variable (s : State)

@[simp] theorem checkSrc0_code (n : Nat) : (s.checkSrc0 n).code = .range := rfl
@[simp] theorem checkSrc1_code (n : Nat) : (s.checkSrc1 n).code = .range := rfl
@[simp] theorem checkDst_code (n : Nat) : (s.checkDst n).code = .range := rfl
@[simp] theorem checkInLen_code : s.checkInLen.code = .inLen := rfl
@[simp] theorem checkOutLen_code : s.checkOutLen.code = .outLen := rfl
@[simp] theorem checkDkLen_code : s.checkDkLen.code = .outLen := rfl
@[simp] theorem checkIter_code : s.checkIter.code = .param := rfl
@[simp] theorem checkScratch_code : s.checkScratch.code = .alloc := rfl

/-- A command checks only for the errors that it raises. -/
theorem raisedBy_of_mem_checks (i : Instr) : ∀ c ∈ (s.effect i).checks, RaisedBy i c.code := by
  cases i with
  | nop | sha256Init | detect => exact nofun
  | _ => simp [State.effect, RaisedBy]

end

/-- An error that a command completes with is that of one of its checks. -/
theorem raisedBy_of_exec {i : Instr} {s t : State} (h : exec i s = .next t) (herr : t.status.err ≠ .ok) :
    RaisedBy i t.status.err := by
  rw [exec_eq_finish_effect] at h
  rcases finish_cases s (s.effect i).checks (s.commit (s.effect i)) (s.reportedPath (s.effect i)) with
    ⟨c, hc, -, hnext⟩ | ⟨-, hnext⟩ <;> cases hnext.symm.trans h
  · exact raisedBy_of_mem_checks s i c hc
  · exact absurd rfl herr

/-- Settles O42: each clause is the row of `RaisedBy` for its code. -/
theorem errorCodesRaisedBy : Obligations.ErrorCodesRaisedBy := by
  intro i s t h
  have raised {code : ErrCode} (hcode : code ≠ .ok) (e : t.status.err = code) : RaisedBy i code := by
    subst e
    exact raisedBy_of_exec h hcode
  exact ⟨raised nofun, raised nofun, raised nofun, raised nofun, raised nofun, raised nofun⟩

end Sys2Proof.Machine
end

section
/-! PROOF. A reset step (70_reset_and_hazards.md R135, R137, R138). -/

namespace Sys2Proof.Machine

/-- The reset input's turn. -/
theorem step_reset {s : State} (h : s.nextTurn = .reset) : step s = .next s.popTurn.resetEvent := by
  rw [step, h]; rfl

/-- No register depends on what a reset keeps: the parameters, the host and the model's own counters. -/
theorem readReg_resetEvent (s : State) (r : Reg) : s.resetEvent.readReg r = State.reset.readReg r := by
  cases r <;> rfl

/-- With nothing listed, a byte of DBUF is the draw of the reset just counted (log 3). -/
theorem dbufByte_resetEvent (s : State) (a : Nat) : s.resetEvent.dbufByte a = Config.dbufDraw (s.resets + 1) a :=
  rfl

/-- Settles O9: the step is the reset event, on the state with the turn taken off the list. -/
theorem resetStepFromAnyState : Obligations.ResetStepFromAnyState := fun s turn =>
  ⟨_, step_reset turn, readReg_resetEvent s.popTurn, rfl, rfl, irq_of_not_done rfl, dbufByte_resetEvent s.popTurn,
    rfl, rfl, rfl, rfl, rfl⟩

end Sys2Proof.Machine
end

section
/-! PROOF. A command in flight through the turns of the host, and its completion after any number of them
(70_reset_and_hazards.md R144, R147; 20_memory.md R60, R61, R64). -/

namespace Sys2Proof.Machine

/-! ## The host's turns -/

/-- A step in the host's turn is one of the host's effects, the host's own data and the draws apart. -/
theorem step_hostEffect {s t : State} (h : step s = .next t) (turn : s.nextTurn = .host) :
    ∃ u host draws, HostEffect s.popTurn s.hostStmt? u ∧ t = u.withHost host draws := by
  cases step_stepEffect h with
  | reset turn' | idle turn' _ | complete turn' _ _ => exact absurd (turn.symm.trans turn') nofun
  | host _ effect _ => exact ⟨_, _, _, effect, rfl⟩

theorem hostEffect_sched {s u : State} {st? : Option Stmt} (h : HostEffect s st? u) : u.sched = s.sched := by
  cases h <;> rfl

/-- The host's turn takes one turn off the list and puts none on it. -/
theorem step_host_sched {s t : State} (h : step s = .next t) (turn : s.nextTurn = .host) :
    t.sched = s.sched.tail := by
  obtain ⟨u, host, draws, effect, rfl⟩ := step_hostEffect h turn
  exact (hostEffect_sched effect :)

/-- A command in flight is as it was, and so is everything it reads and writes and what it reports when it ends. -/
structure InFlightKept (s t : State) : Prop where
  dbuf : t.dbuf = s.dbuf
  resets : t.resets = s.resets
  h : t.h = s.h
  cap : t.cap = s.cap
  scratch : t.scratch = s.scratch
  latch : t.latch = s.latch
  cmd : t.cmd = s.cmd
  errinfo : t.errinfo = s.errinfo
  path : t.status.path = s.status.path
  busy : t.status.busy = s.status.busy
  err : s.status.err = .ok → t.status.err = .ok

/-- A STATUS write sets no error: it clears ERR with DONE, or keeps it (10_state.md R26). -/
theorem status_written_err_of_ok {st : Status} (w : Word) (h : st.err = .ok) : (st.written w).err = .ok := by
  rw [status_written_err, h, ite_self]

/-- The two effects that would touch a command in flight, a DBUF store and an issue, need BUSY = 0. -/
theorem hostEffect_inFlightKept {s u : State} {st? : Option Stmt} (busy : s.status.busy = true)
    (h : HostEffect s st? u) : InFlightKept s u := by
  cases h with
  | dbufStored _ _ idle _ | issue _ _ idle => exact absurd (busy.symm.trans idle) nofun
  | status v _ => exact ⟨rfl, rfl, rfl, rfl, rfl, rfl, rfl, rfl, rfl, rfl, status_written_err_of_ok v⟩
  | _ => exact ⟨rfl, rfl, rfl, rfl, rfl, rfl, rfl, rfl, rfl, rfl, id⟩

theorem step_host_inFlightKept {s t : State} (h : step s = .next t) (busy : s.status.busy = true)
    (turn : s.nextTurn = .host) : InFlightKept s t := by
  obtain ⟨u, host, draws, effect, rfl⟩ := step_hostEffect h turn
  exact { hostEffect_inFlightKept (s := s.popTurn) busy effect with }

/-- Settles O17: DBUF reads the same because its list and the reset count are kept. -/
theorem hostCannotDisturbCommandInFlight : Obligations.HostCannotDisturbCommandInFlight := by
  intro s t h busy turn
  have kept := step_host_inFlightKept h busy turn
  exact ⟨dbufByte_congr kept.dbuf kept.resets, kept.h, kept.cap, kept.scratch, kept.latch, kept.cmd, kept.errinfo,
    kept.path, kept.busy.trans busy, kept.err⟩

/-! ## Completion after any number of turns of the host -/

/-- A completion signals its end, whatever the word in flight, and takes no turn of its own. -/
theorem complete_signals (s : State) :
    ∃ t, s.complete = .next t ∧ t.status.busy = false ∧ t.status.done = true ∧ t.sched = s.sched := by
  rcases complete_cases s with ⟨_, _, -, -, hnext⟩ | ⟨_, _, _, _, _, _, _, -, -, hnext⟩ <;>
    exact ⟨_, hnext, rfl, rfl, rfl⟩

/-- The core's turn with a command in flight completes it. -/
theorem step_core_signals {s : State} {rest : List Turn} (busy : s.status.busy = true)
    (hsched : s.sched = .core :: rest) :
    ∃ t, step s = .next t ∧ t.status.busy = false ∧ t.status.done = true ∧ t.sched = rest := by
  obtain ⟨t, hnext, hbusy, hdone, htail⟩ := complete_signals s.popTurn
  refine ⟨t, ?_, hbusy, hdone, by rw [htail, popTurn_sched, hsched, List.tail_cons]⟩
  rw [step_core (nextTurn_cons hsched), coreStep_of_busy (s := s.popTurn) busy, hnext]

/-- Turns of the host, run one by one, use up their own part of the list and leave the command in flight. -/
theorem run_host_turns (n : Nat) {s u : State} {rest : List Turn} (busy : s.status.busy = true)
    (hsched : s.sched = List.replicate n .host ++ rest) (hrun : Host.Core.run core n s = .next u) :
    u.status.busy = true ∧ u.sched = rest := by
  induction n generalizing s with
  | zero =>
    cases (run_zero s).symm.trans hrun
    exact ⟨busy, hsched⟩
  | succ n ih =>
    obtain ⟨t, hstep, hrun'⟩ := run_succ_inv hrun
    have turn : s.nextTurn = .host := nextTurn_cons hsched
    refine ih ((step_host_inFlightKept hstep busy turn).busy.trans busy) ?_ hrun'
    rw [step_host_sched hstep turn, hsched]
    rfl

/-- Settles O6: the turns of the host end with the command in flight and the core's turn at the head of the list. -/
theorem completionAfterAnyNumberOfHostTurns : Obligations.CompletionAfterAnyNumberOfHostTurns := by
  intro n s u rest busy hsched hrun
  obtain ⟨hbusy, hsched'⟩ := run_host_turns n busy hsched hrun
  exact ⟨hbusy, step_core_signals hbusy hsched'⟩

end Sys2Proof.Machine
end
